-- ==== Sys2Proof/Word.lean ====
section
/-! DEFINITION. The fixed-width types of the Apwyn XM4: bytes, link words, blocks, and the numbers that name
tags, ports, piece records and block slots (manual, "Conventions" and "Capacities"). -/

namespace Sys2Proof

/-- One byte of a link frame, of a block or of the store image. -/
abbrev Byte := BitVec 8

/-- A 16-bit little-endian field: a frame offset, the map generation. -/
abbrev Half := BitVec 16

/-- A 32-bit field of a record: an LBA, a PBA, a length, a parameter word, a capacity, a detail. -/
abbrev Word := BitVec 32

/-- A block: 512 bytes. -/
abbrev Block := Vector Byte 512

/-- A request tag, 0 to 15. -/
abbrev Tag := Fin 16

/-- A media port, MP0 to MP3. -/
abbrev PortId := Fin 4

/-- The index of one of the 48 piece records (R51). -/
abbrev PieceId := Fin 48

/-- The number of one of the 32 block slots (R60). -/
abbrev SlotId := Fin 32

end Sys2Proof
end

