-- ==== Sys2Proof/Syntax.lean ====
section
/-! DEFINITION. The commands of the part: one constructor for each row of spec/opcode_table.json, with the operands
that the row's record, frame or line event carries (R74, R172, R179). -/

namespace Sys2Proof

/-- R74: the error kind of a media ERROR status. -/
inductive MediaError where
  | uncorrectable
  | range
  deriving DecidableEq, Repr

/-- One command or event at the part. Rows that a REQ frame brings carry the record's fields that their kind reads
(R179; log 2); the media rows carry `check`, whether the frame's check word matched (R76; log 3). -/
inductive Instr where
  -- data requests
  | read (tag : Tag) (unit : Byte) (count : Byte) (lba : Word)
  | write (tag : Tag) (unit : Byte) (count : Byte) (lba : Word)
  | verify (tag : Tag) (unit : Byte) (count : Byte) (lba : Word)
  | flush (tag : Tag) (unit : Byte)
  -- management requests
  | identify (tag : Tag) (unit : Byte)
  | status (tag : Tag) (unit : Byte)
  | peek (tag : Tag) (unit : Byte)
  | setup (tag : Tag) (unit : Byte) (timeoutCode mode periodCode : Word)
  | keepalive (tag : Tag) (unit : Byte)
  | unfence (tag : Tag) (unit : Byte)
  | mapOpen (tag : Tag) (unit : Byte)
  | mapStage (tag : Tag) (unit : Byte) (firstIndex recordCount : Word)
  | mapCommit (tag : Tag) (unit : Byte)
  | mapDiscard (tag : Tag) (unit : Byte)
  | mapRead (tag : Tag) (unit : Byte) (selector firstIndex recordCount : Word)
  | mapSave (tag : Tag) (unit : Byte)
  | lock (tag : Tag) (unit : Byte)
  | unlock (tag : Tag) (unit : Byte)
  | move (tag : Tag) (unit : Byte) (dataUnit destPort : Byte) (logicalStart destStart : Word)
  | portOffline (tag : Tag) (unit : Byte) (port : Word)
  | portOnline (tag : Tag) (unit : Byte) (port : Word)
  | restart (tag : Tag) (unit : Byte)
  -- frames of the upstream link
  | badFrame (frame : List Byte)
  | hostData (tag : Tag) (offset : Half) (payload : Block)
  | cancel (tag : Tag)
  | linkReset
  | readDataDeparts
  | mgmtDataDeparts
  | restartCmplDeparts
  -- timers
  | grantTimeExpiry (tag : Tag) (first : Half)
  | pieceTimerExpiry (port : PortId)
  | probeTimerExpiry (port : PortId)
  | fullExpiry
  | firstExpiry
  | secondExpiry
  -- frames of the media links
  | mediaData (port : PortId) (check : Bool) (index : Fin 8) (payload : Block)
  | mediaStsOk (port : PortId) (check : Bool)
  | mediaStsError (port : PortId) (check : Bool) (index : Fin 8) (kind : MediaError)
  | mediaStsNotReady (port : PortId) (check : Bool)
  | mediaStsInquiry (port : PortId) (check : Bool) (capacity : Word) (ready : Bool)
  -- lines
  | presentnAsserted (port : PortId)
  | presentnReleased (port : PortId)
  | wpnAsserted
  | wpnReleased
  | resetnAsserted
  | resetnReleased
  | powerOn
  | powerLoss
  -- the store
  | storeWriteEndGood
  | storeWriteEndBad
  | startUpReadEnd
  -- steps the part takes by itself
  | intakeHeadResolution
  | cutEvent
  | flushResolution
  | flPieceCut
  | slotGrant
  | mguTakesHead
  | blockingSetEmpties
  | cpPieceCut
  | moveSwitch
  | frameDeparture
  deriving DecidableEq, Repr

end Sys2Proof
end

