-- ==== Sys2Proof/Decode.lean ====
section
/-! DEFINITION. The command that a word spells by the bits of spec/opcode_table.json. The part is a block: no row of
the table gives bits, so no word spells a command. The frames that the host sends are read in Machine/Operands. -/

namespace Sys2Proof

/-- No row of the opcode table gives bits. -/
def decodeTableWord (_nbits _w : Nat) : Option Instr := none

end Sys2Proof
end

