-- ==== Sys2Proof/Machine/Bytes.lean ====
section
/-! DEFINITION. Byte order and the check word. Multi-byte fields are little-endian (manual, "Units and numbers"),
and the check word is that of R173. -/

namespace Sys2Proof.Machine

/-- The `n` little-endian bytes of `v`. -/
def leBytes : Nat → Nat → List Byte
  | 0, _ => []
  | n + 1, v => BitVec.ofNat 8 v :: leBytes n (v / 256)

/-- The number that little-endian bytes spell. -/
def leNat : List Byte → Nat
  | [] => 0
  | b :: bs => b.toNat + 256 * leNat bs

/-- Byte `i` of a list, 0 beyond its end. -/
def byteAt (bs : List Byte) (i : Nat) : Byte := bs.getD i 0

/-- The 16-bit field at bytes `i` and `i + 1`. -/
def halfAt (bs : List Byte) (i : Nat) : Half := BitVec.ofNat 16 (leNat ((bs.drop i).take 2))

/-- The 32-bit field at bytes `i` to `i + 3`. -/
def wordAt (bs : List Byte) (i : Nat) : Word := BitVec.ofNat 32 (leNat ((bs.drop i).take 4))

/-- `n` bytes given by their byte number. -/
def bytesOf (n : Nat) (f : Nat → Byte) : Vector Byte n := ⟨⟨(List.range n).map f⟩, by simp⟩

/-- The first `n` bytes of a list, 0 beyond its end. -/
def packBytes (n : Nat) (bs : List Byte) : Vector Byte n := bytesOf n (byteAt bs)

/-- R173: one shift of the check register, generator x^16 + x^12 + x^5 + 1. -/
def checkShift (r : Nat) : Nat := if r < 32768 then 2 * r else 2 * r % 65536 ^^^ 0x1021

/-- `n` shifts of the check register. The split on the register only makes the kernel evaluate it at each shift. -/
def checkShifts : Nat → Nat → Nat
  | 0, r => r
  | n + 1, 0 => checkShifts n (checkShift 0)
  | n + 1, r + 1 => checkShifts n (checkShift (r + 1))

/-- R173: one byte, taken most significant bit first. -/
def checkByte (r : Nat) (b : Byte) : Nat := checkShifts 8 (r ^^^ b.toNat * 256)

/-- The check register after a run of bytes. -/
def checkFrom : Nat → List Byte → Nat
  | r, [] => r
  | 0, b :: bs => checkFrom (checkByte 0 b) bs
  | r + 1, b :: bs => checkFrom (checkByte (r + 1) b) bs

/-- R173: the check word of a run of bytes; the register starts at all ones and is sent without inversion. -/
def checkWord (bs : List Byte) : Nat := checkFrom 0xFFFF bs

/-- The check word as its two bytes, low byte first (R172). -/
def checkBytes (bs : List Byte) : List Byte := leBytes 2 (checkWord bs)

/-- Whether the two bytes after the first `n` bytes are the check word of those `n` bytes. -/
def checkGood (n : Nat) (bs : List Byte) : Bool :=
  (halfAt bs n).toNat == checkWord (bs.take n)

end Sys2Proof.Machine
end

