-- ==== Sys2Proof/Config.lean ====
section
/-! DEFINITION. What is fixed for the part (capacities, timer lengths) and the free values: the contents that the
manual leaves unknown. A free value has no body, so no proof can lean on one value of it. -/

namespace Sys2Proof.Config

/-- R54: 48 piece records. -/
def pieceRecords : Nat := 48

/-- R54: the cutter takes a record only while more than 4 records are free. -/
def heldBackRecords : Nat := 4

/-- R17: the pool of 96 segment records. -/
def segmentRecords : Nat := 96

/-- The most blocks of a piece, a grant or a chunk. -/
def pieceBlocks : Nat := 8

/-- R62: the pass-over count that takes the reserve. -/
def passOverLimit : Nat := 4

/-- R91: the fault count that takes a port OFFLINE. -/
def faultLimit : Nat := 4

/-- R63: GRANT_TIME in milliseconds. -/
def grantTimeMs : Nat := 250

/-- R83: PROBE_TIME in milliseconds. -/
def probeTimeMs : Nat := 1000

/-- R87: the piece timer length of each piece timeout code, in milliseconds. -/
def pieceTimeMs : Fin 8 → Nat
  | 0 => 5 | 1 => 10 | 2 => 20 | 3 => 50 | 4 => 100 | 5 => 200 | 6 => 500 | 7 => 1000

/-- R145: the supervision period of each period code, in milliseconds. -/
def periodMs : Fin 8 → Nat
  | 0 => 50 | 1 => 100 | 2 => 200 | 3 => 400 | 4 => 800 | 5 => 1600 | 6 => 3200 | 7 => 6400

/-- FREE VALUE (log 1). The bytes found in the store header after a header write that was cut off or ended bad
(R132, R137), before the manual's bound on them is applied. -/
opaque freeHeader : Nat → Vector Byte 10

/-- FREE VALUE (log 1). The bytes found in a store row after a row write that was cut off or ended bad (R132, R137),
before the manual's bound on them is applied. -/
opaque freeRow : Nat → Vector Byte 130

end Sys2Proof.Config
end

