-- ==== Sys2Proof/Machine/State.lean ====
section
/-! DEFINITION. The state of the part, block by block as the manual's block overview names its owners, as plain
data, and State.reset. -/

namespace Sys2Proof.Machine

/-! ### Names of the manual -/

/-- R23, R179: the request kinds. -/
inductive Kind where
  | read | write | verify | flush
  | identify | status | peek | setup | keepalive | unfence
  | mapOpen | mapStage | mapCommit | mapDiscard | mapRead | mapSave
  | move | port | lock | unlock | restart
  deriving DecidableEq, Repr

/-- R180: the outcome of a completion. -/
inductive ReqOutcome where
  | good | refused | failed | cancelled
  deriving DecidableEq, Repr

/-- R180: the causes. -/
inductive Cause where
  | none | badUnit | badKind | badParam | noMap | range | writeProtected | fenced
  | portOffline | portDown | media | mediaRange | timeout | dataTimeout | notOpen | invalidMap
  | moveActive | saveActive | locked | overlap | storeFail | supervised
  deriving DecidableEq, Repr

/-- R152: the part state. -/
inductive PartState where
  | loading | bare | run | fenced
  deriving DecidableEq, Repr

/-! ### Pins and the frames that leave the part -/

/-- The input lines and the power of the part (R77, R139, R151). `started` says that a start-up has been taken
since power was applied, which decides the start cause (R139). -/
structure Pins where
  powered : Bool
  resetLow : Bool
  started : Bool
  wpnLow : Bool
  presentLow : Vector Bool 4
  deriving DecidableEq, Repr

/-- R180: the completion record. -/
structure Completion where
  tag : Tag
  outcome : ReqOutcome
  cause : Cause
  attention : Bool
  partState : PartState
  remaining : Nat
  generation : Half
  detail : Word
  deriving DecidableEq, Repr

/-- A frame on the upstream link, part to host (R172). -/
inductive HostFrame where
  | cmpl (c : Completion)
  | data (tag : Tag) (offset : Nat) (payload : Block)
  | grant (tag : Tag) (first count : Nat)
  deriving DecidableEq, Repr

/-- R176: a frame of the transmit list. A STATUS frame has no payload until it departs (R163); `restart` marks the
completion of a RESTART, whose departure starts the part (R142). -/
inductive TxFrame where
  | cmpl (c : Completion) (restart : Bool)
  | grant (tag : Tag) (first count : Nat)
  | readData (piece : PieceId) (tag : Tag) (offset : Nat) (payload : Block)
  | mgmtData (tag : Tag) (offset : Nat) (payload : Block)
  | statusData (tag : Tag)
  | peekData (tag : Tag) (payload : Block)
  deriving DecidableEq, Repr

/-- R74: the ops of a media command that a piece sends. -/
inductive MediaOp where
  | rd | wr | vf | fl
  deriving DecidableEq, Repr

/-- What leaves the part on a media port: an MRSTn pulse (R77), a CMD for a piece with the DATA frames of a write
(R75), or the CMD of op INQ of a probe (R83). Every CMD carries a PBA and a count (R74). -/
inductive MediaOut where
  | pulse
  | inquiry (pba count : Nat)
  | command (op : MediaOp) (pba count : Nat) (data : List Block)
  deriving DecidableEq, Repr

/-- The outgoing lines as the model records them: the frames that have left for the host and what has been sent on
the media links, oldest first (MODEL FIELD, log 4). -/
structure Out where
  sent : List HostFrame
  media : List (PortId × MediaOut)
  deriving DecidableEq, Repr

/-! ### ULC -/

/-- What receives the data of a grant: a write piece's slots (R63) or the management data buffer (R117). -/
inductive GrantTarget where
  | piece (id : PieceId)
  | buffer
  deriving DecidableEq, Repr

/-- R63, R175: a grant record. Its filled set is that of the piece (R51) or of the buffer (R118), held there; its
GRANT_TIME timer runs exactly while the record exists. -/
structure Grant where
  tag : Tag
  first : Nat
  count : Nat
  target : GrantTarget
  deriving DecidableEq, Repr

/-- The state of ULC: the transmit list (R176), the grant records and the withdrawn set of each tag (R65, R177). -/
structure Ulc where
  tx : List TxFrame
  grants : List Grant
  withdrawn : Vector (List Nat) 16
  deriving DecidableEq, Repr

/-! ### RQT and RSV -/

/-- R16: the target kind of a segment, with the destination of a dual one. -/
inductive Target where
  | single
  | dual (port : PortId) (start : Nat)
  | dualAfterChunk (port : PortId) (start : Nat)
  deriving DecidableEq, Repr

/-- R16: a segment record. -/
structure Segment where
  offset : Nat
  length : Nat
  port : PortId
  start : Nat
  verify : Bool
  target : Target
  deriving DecidableEq, Repr

/-- R24: the states of an entry that is not FREE. -/
inductive EntryState where
  | queued | barrier | active | draining
  deriving DecidableEq, Repr

/-- R23: the mark of a port of an ACTIVE FLUSH. -/
inductive FlMark where
  | uncut | cut | done | failed | dropped
  deriving DecidableEq, Repr

/-- R23: a request entry that is not FREE; an entry in FREE is `none` in the table. A field that the kind does not
use is 0 or empty. The failure point of a FLUSH holds the port number as its first part. -/
structure Entry where
  state : EntryState
  unit : Byte
  kind : Kind
  lba : Word
  count : Nat
  p0 : Word
  p1 : Word
  p2 : Word
  segments : List Segment
  cutSeg : Nat
  cutOff : Nat
  notEnded : Nat
  done : List Nat
  failure : Option (Nat × Cause)
  cancelTaken : Bool
  waitSet : List Tag
  flPorts : List (PortId × FlMark)
  deriving DecidableEq, Repr

/-- The state of RQT: the table and the ordered collections of R29 to R31. `barrier` holds the FLUSH tags in BARRIER
in arrival order (R47), `flushing` the ACTIVE FLUSH tags with uncut ports in resolution order (R48, R54). -/
structure Rqt where
  entries : Vector (Option Entry) 16
  intake : List Tag
  mgmt : List Tag
  active : List Tag
  barrier : List Tag
  flushing : List Tag
  deriving DecidableEq, Repr

/-! ### XMP -/

/-- R1, R181: an extent record with its field codes as held; a staging record may hold codes that name no value
(R115). In an active record `used` is 0 or 1. -/
structure Extent where
  used : Byte
  unit : Byte
  port : Byte
  policy : BitVec 2
  verify : Bool
  moving : Bool
  lstart : Word
  length : Word
  pstart : Word
  deriving DecidableEq, Repr

/-- R2: an empty record. -/
def Extent.empty : Extent := ⟨0, 0, 0, 0, false, false, 0, 0, 0⟩

/-- A table of 64 extent records. -/
abbrev ExtMap := Vector Extent 64

/-- A table with every record empty. -/
def ExtMap.empty : ExtMap := Vector.replicate 64 Extent.empty

/-- The state of XMP (R22, R115). -/
structure Xmp where
  active : ExtMap
  generation : Half
  staging : ExtMap
  stagingOpen : Bool
  deriving DecidableEq, Repr

/-! ### PSC and SPA -/

/-- R51: who receives the outcome of a piece. -/
inductive Owner where
  | tag (t : Tag)
  | move
  | discard
  deriving DecidableEq, Repr

/-- R52: the piece kinds. -/
inductive PieceKind where
  | rd | wr | vf | fl | cp
  deriving DecidableEq, Repr

/-- R53: the states of a piece. -/
inductive PieceState where
  | queued | filling | atMedia | verifying | shadowWait | shadow | delivering
  deriving DecidableEq, Repr

/-- R51: the states of a shadow part. -/
inductive ShadowState where
  | pending | waiting | queued | atMedia | verifying
  deriving DecidableEq, Repr

/-- R51: the shadow part of a piece. -/
structure Shadow where
  port : PortId
  start : Nat
  afterChunk : Bool
  state : ShadowState
  deriving DecidableEq, Repr

/-- R51: a piece record in use; a free record is `none` in the pool. The slot list of a delivering piece shrinks as its
frames leave (R67; log 5). -/
structure Piece where
  owner : Owner
  kind : PieceKind
  port : PortId
  start : Nat
  count : Nat
  offset : Nat
  verify : Bool
  slots : List SlotId
  state : PieceState
  filled : List Nat
  shadow : Option Shadow
  failure : Option (Nat × Cause)
  deriving DecidableEq, Repr

/-- The state of PSC: the pool (R54), the port queues (R58) and the pieces in SHADOW_WAIT in the order in which they
entered it (R70). -/
structure Psc where
  pieces : Vector (Option Piece) 48
  queues : Vector (List PieceId) 4
  waiting : List PieceId
  deriving DecidableEq, Repr

/-- The state of SPA: slot contents, free list, rotation pointer, pass-over counts (R60, R61) and the ports at the
pass-over limit in the order in which they take the reserve, the holder first (R62). -/
structure Spa where
  slots : Vector Block 32
  free : List SlotId
  pointer : PortId
  passOver : Vector Nat 4
  reserve : List PortId
  deriving DecidableEq, Repr

/-! ### MPC -/

/-- R78: the port states. -/
inductive PortState where
  | down | probing | ready | recovering | offline
  deriving DecidableEq, Repr

/-- R78: the command outstanding on a media link: that of a piece with its op and its phase (`dest` for the
destination phase), or the INQ of a probe. -/
inductive Command where
  | piece (id : PieceId) (op : MediaOp) (dest : Bool)
  | inquiry
  deriving DecidableEq, Repr

/-- R78, R166: offline pending; a pending offline detached by a link reset holds no tag. -/
inductive OfflinePending where
  | no
  | yes (tag : Option Tag)
  deriving DecidableEq, Repr

/-- R78: the state of a media port controller. A running piece timer holds its length in milliseconds. `mrst` says
that MRSTn is held asserted (R77). -/
structure Port where
  state : PortState
  faults : Nat
  capacity : Word
  outstanding : Option Command
  received : List Nat
  pieceTimer : Option Nat
  probeTimer : Bool
  offlinePending : OfflinePending
  mrst : Bool
  deriving DecidableEq, Repr

/-! ### MVE -/

/-- R100: the phase of the chunk in flight. -/
inductive ChunkPhase where
  | held | claim | cut
  deriving DecidableEq, Repr

/-- R96: the chunk in flight, [cursor, cursor + count). -/
structure Chunk where
  count : Nat
  phase : ChunkPhase
  deriving DecidableEq, Repr

/-- R96: the move context while it is not IDLE; IDLE is `none`. `pending` tells SWITCH_PENDING from COPYING. -/
structure Move where
  pending : Bool
  tag : Tag
  unit : Byte
  lstart : Nat
  length : Nat
  srcPort : PortId
  srcStart : Nat
  dstPort : PortId
  dstStart : Nat
  verify : Bool
  cursor : Nat
  chunk : Option Chunk
  piece : Option PieceId
  blocking : List Tag
  dual : List Tag
  shadows : List PieceId
  deriving DecidableEq, Repr

/-! ### MGU -/

/-- R144: the supervision modes. -/
inductive Mode where
  | off | timeout | window
  deriving DecidableEq, Repr

/-- R158: the three settings. -/
structure Settings where
  timeoutCode : Fin 8
  mode : Mode
  periodCode : Fin 8
  deriving DecidableEq, Repr

/-- R141: the default settings. -/
def Settings.default : Settings := ⟨5, .off, 3⟩

/-- R159: the execution states of MGU. -/
inductive MguExec where
  | idle | dataIn | dataOut | portWait | stopped
  deriving DecidableEq, Repr

/-- R139: the start causes. -/
inductive StartCause where
  | power | pin | restart
  deriving DecidableEq, Repr

/-- R167: the change flags. -/
inductive ChangeFlag where
  | start | port | store | link | fence
  deriving DecidableEq, Repr

/-- R158: the set of change flags. -/
structure ChangeFlags where
  start : Bool
  port : Bool
  store : Bool
  link : Bool
  fence : Bool
  deriving DecidableEq, Repr

/-- The state of MGU (R158). ATTN is computed from the flags and LAPSE (R169), see `attnPin`. -/
structure Mgu where
  exec : MguExec
  executing : Option (Tag × Kind)
  buffer : Vector (Option Block) 2
  settings : Settings
  startCause : StartCause
  flags : ChangeFlags
  deriving DecidableEq, Repr

/-! ### MST -/

/-- R128, R131: the write in progress of a save. -/
inductive SaveStep where
  | opening
  | row (n : Fin 8)
  | closing
  deriving DecidableEq, Repr

/-- R130: the save image. -/
structure SaveImage where
  records : ExtMap
  generation : Half
  usedCount : Nat
  settings : Settings
  lock : Bool
  deriving DecidableEq, Repr

/-- R128: the store operation in progress, with the tag that holds it (absent once detached, R136). -/
inductive StoreOp where
  | idle
  | saving (step : SaveStep) (image : SaveImage) (tag : Option Tag)
  | wiping (tag : Option Tag)
  deriving DecidableEq, Repr

/-- R128: the store operation kinds. -/
inductive StoreKind where
  | save | lock | unlock
  deriving DecidableEq, Repr

/-- R128: the store state. -/
inductive StoreState where
  | invalid | identity | map
  deriving DecidableEq, Repr

/-- R128: the last operation, with its outcome GOOD or FAILED and its cause. -/
structure LastOp where
  kind : StoreKind
  outcome : ReqOutcome
  cause : Cause
  deriving DecidableEq, Repr

/-- The state of MST: the nonvolatile image as its bytes (R127, R183), the store operation, whether the start-up read
is running (R140), the map lock, the store state and the last operation (R128). -/
structure Mst where
  header : Vector Byte 10
  rows : Vector (Vector Byte 130) 8
  op : StoreOp
  reading : Bool
  lock : Bool
  storeState : StoreState
  lastOp : Option LastOp
  deriving DecidableEq, Repr

/-! ### SVM -/

/-- R144: the supervision timer. -/
inductive Timer where
  | stopped | full | first | second
  deriving DecidableEq, Repr

/-- R144: the set of fence causes. -/
structure FenceCauses where
  supervision : Bool
  pin : Bool
  deriving DecidableEq, Repr

/-- The state of SVM (R144). `periodMs` is the length fixed when the running period started, and stays when the timer
stops (MODEL'S CHOICE, log 6); the mode and the period code are settings of MGU. -/
structure Svm where
  partState : PartState
  timer : Timer
  periodMs : Nat
  lapse : Bool
  causes : FenceCauses
  deriving DecidableEq, Repr

/-! ### The whole part -/

/-- The state of the part and of the queue of commands that wait for it. `draws` counts the free values taken
(MODEL FIELD, log 1). -/
structure State where
  pending : List Instr
  pins : Pins
  ulc : Ulc
  rqt : Rqt
  xmp : Xmp
  psc : Psc
  spa : Spa
  ports : Vector Port 4
  mve : Option Move
  mgu : Mgu
  mst : Mst
  svm : Svm
  out : Out
  draws : Nat
  deriving DecidableEq, Repr

/-- The reasons a command ends in a fault. No rule of the manual stops the part, so no meaning raises one. -/
inductive Fault where
  /-- Raised by nothing: the manual gives every event an effect or none. Safe: it adds no behaviour. -/
  | neverRaised
  deriving DecidableEq, Repr

/-- The reasons a command is refused. -/
inductive Refusal where
  /-- Raised by exec's arm of a row that has no meaning yet. Safe: nothing can be proved of such a command. -/
  | notModelled (mnemonic : String)
  deriving DecidableEq, Repr

/-! ### Replacing the state of one block -/

def State.setPins (x : Pins) (s : State) : State := { s with pins := x }
def State.setUlc (x : Ulc) (s : State) : State := { s with ulc := x }
def State.setRqt (x : Rqt) (s : State) : State := { s with rqt := x }
def State.setXmp (x : Xmp) (s : State) : State := { s with xmp := x }
def State.setPsc (x : Psc) (s : State) : State := { s with psc := x }
def State.setSpa (x : Spa) (s : State) : State := { s with spa := x }
def State.setPorts (x : Vector Port 4) (s : State) : State := { s with ports := x }
def State.setMve (x : Option Move) (s : State) : State := { s with mve := x }
def State.setMgu (x : Mgu) (s : State) : State := { s with mgu := x }
def State.setMst (x : Mst) (s : State) : State := { s with mst := x }
def State.setSvm (x : Svm) (s : State) : State := { s with svm := x }
def State.setOut (x : Out) (s : State) : State := { s with out := x }
def State.setDraws (x : Nat) (s : State) : State := { s with draws := x }
def State.setPending (x : List Instr) (s : State) : State := { s with pending := x }

/-! ### Reset values -/

/-- R127: the header of a part as it leaves the factory: state IDENTITY, lock flag CLEAR, piece timeout code 5, mode
OFF, period code 3, used-extent count 0, generation 0, and the check word of those bytes. -/
def factoryHeader : Vector Byte 10 := #v[1, 0, 5, 0, 3, 0, 0, 0, 0x30, 0xAE]

/-- R127: a row of 8 empty records with its check word. -/
def factoryRow : Vector Byte 130 :=
  (Vector.replicate 128 (0 : Byte)).append #v[0x0A, 0xF0]

/-- R78, R95: a port right after a start-up with PRESENTn released. -/
def Port.reset : Port := ⟨.down, 0, 0, none, [], none, false, .no, false⟩

/-- The part right after its first start-up (R139), with the store as it leaves the factory and every input line
released (log 6): the start-up read has begun and the part is LOADING. -/
def State.reset : State where
  pending := []
  pins := ⟨true, false, true, false, Vector.replicate 4 false⟩
  ulc := ⟨[], [], Vector.replicate 16 []⟩
  rqt := ⟨Vector.replicate 16 none, [], [], [], [], []⟩
  xmp := ⟨ExtMap.empty, 0, ExtMap.empty, false⟩
  psc := ⟨Vector.replicate 48 none, Vector.replicate 4 [], []⟩
  spa := ⟨Vector.replicate 32 (Vector.replicate 512 0), List.finRange 32, 0, Vector.replicate 4 0, []⟩
  ports := Vector.replicate 4 Port.reset
  mve := none
  mgu := ⟨.idle, none, Vector.replicate 2 none, Settings.default, .power, ⟨true, false, false, false, false⟩⟩
  mst := ⟨factoryHeader, Vector.replicate 8 factoryRow, .idle, true, false, .invalid, none⟩
  svm := ⟨.loading, .stopped, 0, false, ⟨false, false⟩⟩
  out := ⟨[], []⟩
  draws := 0

end Sys2Proof.Machine
end

