-- ==== Sys2Proof/Machine/Records.lean ====
section
/-! DEFINITION. The byte layouts of the records that cross the upstream link or lie in the store (R172, R179 to
R183), and the codes of their fields. -/

namespace Sys2Proof.Machine

/-! ### Codes -/

/-- R179: the request kind of a kind code. -/
def kindOf (code : Byte) : Option Kind :=
  match code.toNat with
  | 1 => some .read | 2 => some .write | 3 => some .verify | 4 => some .flush
  | 16 => some .identify | 17 => some .status | 18 => some .peek | 19 => some .setup
  | 20 => some .keepalive | 21 => some .unfence | 22 => some .mapOpen | 23 => some .mapStage
  | 24 => some .mapCommit | 25 => some .mapDiscard | 26 => some .mapRead | 27 => some .mapSave
  | 28 => some .move | 29 => some .port | 30 => some .lock | 31 => some .unlock | 32 => some .restart
  | _ => none

/-- R179: the kind code of a request kind. -/
def kindCode : Kind → Byte
  | .read => 1 | .write => 2 | .verify => 3 | .flush => 4
  | .identify => 16 | .status => 17 | .peek => 18 | .setup => 19
  | .keepalive => 20 | .unfence => 21 | .mapOpen => 22 | .mapStage => 23
  | .mapCommit => 24 | .mapDiscard => 25 | .mapRead => 26 | .mapSave => 27
  | .move => 28 | .port => 29 | .lock => 30 | .unlock => 31 | .restart => 32

/-- R180: outcome codes. -/
def outcomeCode : ReqOutcome → Byte
  | .good => 0 | .refused => 1 | .failed => 2 | .cancelled => 3

/-- R180: cause codes. -/
def causeCode : Cause → Byte
  | .none => 0 | .badUnit => 1 | .badKind => 2 | .badParam => 3 | .noMap => 4 | .range => 5
  | .writeProtected => 6 | .fenced => 7 | .portOffline => 8 | .portDown => 9 | .media => 10
  | .mediaRange => 11 | .timeout => 12 | .dataTimeout => 13 | .notOpen => 14 | .invalidMap => 15
  | .moveActive => 16 | .saveActive => 17 | .locked => 18 | .overlap => 19 | .storeFail => 20
  | .supervised => 21

/-- R180: part state codes. -/
def partStateCode : PartState → Byte
  | .loading => 0 | .bare => 1 | .run => 2 | .fenced => 3

/-- R179, R182, R183: supervision mode codes. -/
def modeCode : Mode → Byte
  | .off => 0 | .timeout => 1 | .window => 2

/-- R179, R183: the mode that a code names. -/
def modeOf (code : Nat) : Option Mode :=
  match code with
  | 0 => some .off | 1 => some .timeout | 2 => some .window | _ => none

/-- The setting code 0 to 7 that a field holds. -/
def codeOf (code : Nat) : Option (Fin 8) := if h : code < 8 then some ⟨code, h⟩ else none

/-- R182: port state codes. -/
def portStateCode : PortState → Byte
  | .down => 0 | .probing => 1 | .ready => 2 | .recovering => 3 | .offline => 4

/-- R182: start cause codes. -/
def startCauseCode : StartCause → Byte
  | .power => 0 | .pin => 1 | .restart => 2

/-- R182, R183: store state codes. -/
def storeStateCode : StoreState → Byte
  | .invalid => 0 | .identity => 1 | .map => 2

/-- R182: codes of the last store operation. -/
def storeKindCode : StoreKind → Byte
  | .save => 1 | .lock => 2 | .unlock => 3

/-- A flag bit as a byte. -/
def bit (b : Bool) : Byte := if b then 1 else 0

/-! ### Extent records (R181) -/

/-- R181: the attributes byte. -/
def attributes (e : Extent) : Byte :=
  e.policy.setWidth 8 ||| (bit e.verify <<< 2) ||| (bit e.moving <<< 3)

/-- R181: the 16 bytes of an extent record. -/
def encodeExtent (e : Extent) : List Byte :=
  [e.used, e.unit, e.port, attributes e] ++ leBytes 4 e.lstart.toNat ++ leBytes 4 e.length.toNat
    ++ leBytes 4 e.pstart.toNat

/-- R181: the record that 16 bytes hold, every field as received. -/
def decodeExtent (bs : List Byte) : Extent where
  used := byteAt bs 0
  unit := byteAt bs 1
  port := byteAt bs 2
  policy := (byteAt bs 3).setWidth 2
  verify := (byteAt bs 3).getLsbD 2
  moving := (byteAt bs 3).getLsbD 3
  lstart := wordAt bs 4
  length := wordAt bs 8
  pstart := wordAt bs 12

/-- R2, R118: a record as a table keeps it: an EMPTY record is all zero, and the move state is NORMAL. -/
def normalExtent (e : Extent) : Extent :=
  if e.used = 0 then Extent.empty else { e with moving := false }

/-- R181: the 16 bytes of record `j` of a run of records. -/
def recordBytes (bs : List Byte) (j : Nat) : List Byte := (bs.drop (16 * j)).take 16

/-- R181: a data block of 32 records. -/
def recordsBlock (rs : List Extent) : Block :=
  packBytes 512 ((rs.take 32).flatMap encodeExtent)

/-! ### Frames to the host (R172, R180) -/

/-- R180: the body of a CMPL frame. -/
def completionBytes (c : Completion) : List Byte :=
  [BitVec.ofNat 8 c.tag, outcomeCode c.outcome, causeCode c.cause, bit c.attention,
    partStateCode c.partState, 0] ++ leBytes 2 c.remaining ++ leBytes 2 c.generation.toNat
    ++ leBytes 4 c.detail.toNat

/-- R172: the kind byte and the body of a frame to the host. -/
def frameBody : HostFrame → List Byte
  | .cmpl c => 5 :: completionBytes c
  | .data t off payload => 2 :: BitVec.ofNat 8 t :: 0 :: (leBytes 2 off ++ payload.toList)
  | .grant t first count => 6 :: BitVec.ofNat 8 t :: BitVec.ofNat 8 count :: leBytes 2 first

/-- R172, R173: a frame as it crosses the link, its check word last. -/
def frameBytes (f : HostFrame) : List Byte := frameBody f ++ checkBytes (frameBody f)

/-- The bytes that have left for the host, frame by frame. -/
def upstreamBytes (s : State) : List (List Byte) := s.out.sent.map frameBytes

/-! ### The status and identify records (R162, R182, R161) -/

/-- R182: the byte that a set of change flags fills. -/
def flagsByte (f : ChangeFlags) : Byte :=
  bit f.start ||| (bit f.port <<< 1) ||| (bit f.store <<< 2) ||| (bit f.link <<< 3) ||| (bit f.fence <<< 4)

/-- Byte `k` of the little-endian number `v`. -/
def leByte (v k : Nat) : Byte := BitVec.ofNat 8 (v / 256 ^ k)

/-- R182: the bytes of one port in the status record, from its byte 16 + 8n. -/
def portStatusByte (p : Port) (j : Nat) : Byte :=
  match j with
  | 0 => portStateCode p.state
  | 1 => BitVec.ofNat 8 p.faults
  | 4 => leByte p.capacity.toNat 0 | 5 => leByte p.capacity.toNat 1
  | 6 => leByte p.capacity.toNat 2 | 7 => leByte p.capacity.toNat 3
  | _ => 0

/-- R182: the move bytes of the status record, from byte 48; all zero when IDLE (R162). -/
def moveStatusByte (m : Option Move) (j : Nat) : Byte :=
  match m with
  | none => 0
  | some m =>
    match j with
    | 0 => if m.pending then 2 else 1
    | 1 => m.unit
    | 2 => BitVec.ofNat 8 m.dstPort
    | 4 => leByte m.lstart 0 | 5 => leByte m.lstart 1 | 6 => leByte m.lstart 2 | 7 => leByte m.lstart 3
    | 8 => leByte m.dstStart 0 | 9 => leByte m.dstStart 1 | 10 => leByte m.dstStart 2
    | 11 => leByte m.dstStart 3
    | 12 => leByte m.cursor 0 | 13 => leByte m.cursor 1 | 14 => leByte m.cursor 2
    | 15 => leByte m.cursor 3
    | _ => 0

/-- R162: store busy, also for an operation that a link reset detached. -/
def storeBusy (s : State) : Bool := s.mst.op ≠ .idle

/-- R182: the store bytes of the status record, from byte 64. -/
def storeStatusByte (s : State) (j : Nat) : Byte :=
  match j with
  | 0 => storeStateCode s.mst.storeState
  | 1 => bit (storeBusy s)
  | 2 => (s.mst.lastOp.map (storeKindCode ·.kind)).getD 0
  | 3 => (s.mst.lastOp.map (outcomeCode ·.outcome)).getD 0
  | 4 => (s.mst.lastOp.map (causeCode ·.cause)).getD 0
  | _ => 0

/-- R182: byte `i` of the status record. -/
def statusByte (s : State) (i : Nat) : Byte :=
  match i with
  | 0 => partStateCode s.svm.partState
  | 1 => startCauseCode s.mgu.startCause
  | 2 => bit s.svm.causes.supervision ||| (bit s.svm.causes.pin <<< 1)
  | 3 => modeCode s.mgu.settings.mode
  | 4 => BitVec.ofNat 8 s.mgu.settings.periodCode
  | 5 => bit s.svm.lapse
  | 6 => flagsByte s.mgu.flags
  | 7 => BitVec.ofNat 8 s.mgu.settings.timeoutCode
  | 8 => bit s.xmp.stagingOpen
  | 9 => bit s.mst.lock
  | 10 => leByte s.xmp.generation.toNat 0
  | 11 => leByte s.xmp.generation.toNat 1
  | _ =>
    if i < 16 then 0
    else if i < 48 then portStatusByte s.ports[(Fin.ofNat 4 ((i - 16) / 8))] ((i - 16) % 8)
    else if i < 64 then moveStatusByte s.mve (i - 48)
    else storeStatusByte s (i - 64)

/-- R162, R182: the status record of the part as it stands. -/
def statusRecord (s : State) : Block := bytesOf 512 (statusByte s)

/-- R182: byte `i` of the identify record. -/
def identifyByte (s : State) (i : Nat) : Byte :=
  match i with
  | 0 => 4 | 1 => 1 | 2 => 0 | 3 => 2 | 4 => 16 | 5 => 64 | 6 => 96 | 7 => 48 | 8 => 32 | 9 => 4
  | 10 => 0 | 11 => 1
  | _ =>
    if i < 12 then 0
    else if i < 28 then
      leByte s.ports[(Fin.ofNat 4 ((i - 12) / 4))].capacity.toNat ((i - 12) % 4)
    else 0

/-- R161, R182: the identify record. -/
def identifyRecord (s : State) : Block := bytesOf 512 (identifyByte s)

/-! ### The store image (R183) -/

/-- R183: a header with its check word. -/
def headerBytes (state : StoreState) (lock : Bool) (set : Settings) (count : Nat) (gen : Half) :
    Vector Byte 10 :=
  let bs := [storeStateCode state, bit lock, BitVec.ofNat 8 set.timeoutCode, modeCode set.mode,
    BitVec.ofNat 8 set.periodCode, BitVec.ofNat 8 count] ++ leBytes 2 gen.toNat
  packBytes 10 (bs ++ checkBytes bs)

/-- R127, R183: the header of state INVALID that a store operation writes. -/
def invalidHeader : Vector Byte 10 := headerBytes .invalid false Settings.default 0 0

/-- R131: the header that the CLOSE write of a save places. -/
def imageHeader (img : SaveImage) : Vector Byte 10 :=
  headerBytes .map img.lock img.settings img.usedCount img.generation

/-- R131, R183: row `n` of a save image with its check word. -/
def imageRow (img : SaveImage) (n : Fin 8) : Vector Byte 130 :=
  let bs := ((img.records.toList.drop (8 * n)).take 8).flatMap encodeExtent
  packBytes 130 (bs ++ checkBytes bs)

/-- R183: whether the header's check word is good. -/
def headerGood (h : Vector Byte 10) : Bool := checkGood 8 h.toList

/-- R183: whether a row's check word is good. -/
def rowGood (r : Vector Byte 130) : Bool := checkGood 128 r.toList

/-- R183: the extent record with map index `i` as the rows hold it. -/
def storedExtent (rows : Vector (Vector Byte 130) 8) (i : Nat) : Extent :=
  decodeExtent (recordBytes rows[(Fin.ofNat 8 (i / 8))].toList (i % 8))

end Sys2Proof.Machine
end

