-- ==== Sys2Proof/Machine/Operands.lean ====
section
/-! DEFINITION. How the operands of the requests are read: the request record (R179), the arrival checks on it (R26),
the parameter words of each management kind, and the frames that the host sends (R172, R174, R175). -/

namespace Sys2Proof.Machine

/-- R179: a request record as it reaches RQT, its kind still a code. -/
structure Request where
  tag : Tag
  unit : Byte
  code : Byte
  count : Byte
  lba : Word
  p0 : Word
  p1 : Word
  p2 : Word
  deriving DecidableEq, Repr

/-- The record of a data request. -/
def dataRequest (k : Kind) (t : Tag) (unit count : Byte) (lba : Word) : Request :=
  ⟨t, unit, kindCode k, count, lba, 0, 0, 0⟩

/-- The record of a request that reads no field but its parameter words. -/
def paramRequest (k : Kind) (t : Tag) (unit : Byte) (p0 p1 p2 : Word) : Request :=
  ⟨t, unit, kindCode k, 0, 0, p0, p1, p2⟩

/-- R23: a count field of 0 gives 256. -/
def blockCount (count : Byte) : Nat := if count = 0 then 256 else count.toNat

/-- READ, WRITE and VERIFY: the kinds that name blocks. -/
def namesBlocks : Kind → Bool
  | .read | .write | .verify => true
  | _ => false

/-- R26: the kinds sent to units 0 to 3. -/
def isDataKind : Kind → Bool
  | .read | .write | .verify | .flush => true
  | _ => false

/-- R26: the arrival checks in their order; the first that matches gives the cause. -/
def arrivalCheck (r : Request) : Option Cause :=
  if 3 < r.unit.toNat ∧ r.unit ≠ 7 then some .badUnit
  else
    match kindOf r.code with
    | none => some .badKind
    | some k =>
      if isDataKind k ≠ decide (r.unit ≠ 7) then some .badKind
      else if namesBlocks k ∧ 4294967295 < r.lba.toNat + blockCount r.count - 1 then some .badParam
      else none

/-- R26: the count remaining of an arrival refusal: the count when the kind code is that of READ, WRITE or VERIFY. -/
def arrivalRemaining (r : Request) : Nat :=
  match kindOf r.code with
  | some k => if namesBlocks k then blockCount r.count else 0
  | none => 0

/-- R179: the parameter word of a MOVE that carries the data unit and the destination port. -/
def moveWord (dataUnit destPort : Byte) : Word :=
  dataUnit.setWidth 32 ||| (destPort.setWidth 32 <<< 8)

/-- R179: MOVE's data unit, byte 8 of the record. -/
def moveUnit (p0 : Word) : Byte := p0.extractLsb' 0 8

/-- R179: MOVE's destination port, byte 9 of the record. -/
def movePort (p0 : Word) : Byte := p0.extractLsb' 8 8

/-- R150: the settings that SETUP's three words name, when each names a value. -/
def setupSettings (p0 p1 p2 : Word) : Option Settings :=
  match codeOf p0.toNat, modeOf p1.toNat, codeOf p2.toNat with
  | some t, some m, some c => some ⟨t, m, c⟩
  | _, _, _ => none

/-- R92: the port a PORT request names. -/
def portOfWord (p0 : Word) : Option PortId :=
  if h : p0.toNat < 4 then some ⟨p0.toNat, h⟩ else none

/-- R117, R125: whether a first index and a record count name a window of a 64-record table. -/
def windowGood (first count : Word) : Bool :=
  0 < count.toNat && count.toNat ≤ 64 && first.toNat ≤ 63 && first.toNat + count.toNat ≤ 64

/-! ### Frames from the host -/

/-- R175: a frame that passed the tests of R174. -/
inductive HostMessage where
  | req (r : Request)
  | data (tag : Tag) (offset : Half) (payload : Block)
  | cancel (tag : Tag)
  | reset
  deriving DecidableEq, Repr

/-- R172: the body length of a host frame kind. -/
def bodyLength (kind : Byte) : Option Nat :=
  match kind.toNat with
  | 1 => some 20 | 2 => some 516 | 3 => some 1 | 4 => some 0 | _ => none

/-- The tag a byte names. -/
def tagOf (b : Byte) : Option Tag := if h : b.toNat < 16 then some ⟨b.toNat, h⟩ else none

/-- R179: the request record in the body of a REQ frame. -/
def requestOf (t : Tag) (body : List Byte) : Request where
  tag := t
  unit := byteAt body 1
  code := byteAt body 2
  count := byteAt body 3
  lba := wordAt body 4
  p0 := wordAt body 8
  p1 := wordAt body 12
  p2 := wordAt body 16

/-- R174: the tests on an arriving frame (kind byte, body, check word): its message, or `none` for a frame that a
test discards. A frame too short for a kind byte and a check word fails the first test. -/
def hostMessage (frame : List Byte) : Option HostMessage :=
  let n := frame.length - 2
  let body := (frame.take n).drop 1
  if frame.length < 3 ∨ checkGood n frame = false then none
  else
    match bodyLength (byteAt frame 0) with
    | none => none
    | some len =>
      if body.length ≠ len then none
      else if byteAt frame 0 = 4 then some .reset
      else
        match tagOf (byteAt body 0) with
        | none => none
        | some t =>
          if byteAt frame 0 = 1 then some (.req (requestOf t body))
          else if byteAt frame 0 = 2 then
            some (.data t (halfAt body 2) (packBytes 512 (body.drop 4)))
          else some (.cancel t)

/-- R172, R179: the kind byte and the body of a frame from the host. -/
def messageBody : HostMessage → List Byte
  | .req r => [1, BitVec.ofNat 8 r.tag, r.unit, r.code, r.count] ++ leBytes 4 r.lba.toNat ++ leBytes 4 r.p0.toNat
      ++ leBytes 4 r.p1.toNat ++ leBytes 4 r.p2.toNat
  | .data t off b => [2, BitVec.ofNat 8 t, 0] ++ leBytes 2 off.toNat ++ b.toList
  | .cancel t => [3, BitVec.ofNat 8 t]
  | .reset => [4]

/-- R172, R173: a frame from the host as it crosses the link. -/
def messageBytes (m : HostMessage) : List Byte := messageBody m ++ checkBytes (messageBody m)

end Sys2Proof.Machine
end

