-- ==== Sys2Proof/Machine/Flags.lean ====
section
/-! DEFINITION. The change flags, LAPSE and attention (R167, R169). -/

namespace Sys2Proof.Machine

/-- R167: a set of change flags with one more set. -/
def raiseFlag (f : ChangeFlag) (fs : ChangeFlags) : ChangeFlags :=
  match f with
  | .start => { fs with start := true }
  | .port => { fs with port := true }
  | .store => { fs with store := true }
  | .link => { fs with link := true }
  | .fence => { fs with fence := true }

/-- No change flag set. -/
def noFlags : ChangeFlags := ⟨false, false, false, false, false⟩

/-- Whether any change flag is set. -/
def anyFlag (fs : ChangeFlags) : Bool := fs.start || fs.port || fs.store || fs.link || fs.fence

/-- R167: a block has MGU set a change flag; setting a flag that is set changes nothing. -/
def setFlag (f : ChangeFlag) (s : State) : State :=
  s.setMgu { s.mgu with flags := raiseFlag f s.mgu.flags }

/-- R163: STATUS clears every change flag. -/
def clearFlags (s : State) : State := s.setMgu { s.mgu with flags := noFlags }

/-- R149: LAPSE becomes CLEAR or SET. -/
def setLapse (b : Bool) (s : State) : State := s.setSvm { s.svm with lapse := b }

/-- R169: the attention bit: any change flag or LAPSE set. -/
def attention (s : State) : Bool := anyFlag s.mgu.flags || s.svm.lapse

/-- The part takes events: it has power and RESETn is released (R139). -/
def running (s : State) : Bool := s.pins.powered && !s.pins.resetLow

/-- R169: the level of ATTN; released while RESETn is asserted, and without power (DEDUCED, log 15). -/
def attnPin (s : State) : Bool := running s && attention s

end Sys2Proof.Machine
end

