-- ==== Sys2Proof/Machine/Ops.lean ====
section
/-! DEFINITION. The named operations on the tables of the part: entries, pieces, ports and queues, the transmit list
and the grant records, the slots, and the sending of a completion (R41). -/

namespace Sys2Proof.Machine

/-- A vector with a function applied to each part. -/
def mapVec {α β : Type} {n : Nat} (f : α → β) (v : Vector α n) : Vector β n :=
  ⟨⟨v.toList.map f⟩, by simp⟩

/-- Adds an element to a list that holds no element twice. -/
def joinSet {α : Type} [DecidableEq α] (x : α) (l : List α) : List α := if x ∈ l then l else l ++ [x]

/-- Removes an element from a list. -/
def leaveSet {α : Type} [DecidableEq α] (x : α) (l : List α) : List α := l.filter (· ≠ x)

/-- Every port number, ascending. -/
def allPorts : List PortId := [0, 1, 2, 3]

/-- Every tag, ascending. -/
def allTags : List Tag := List.finRange 16

/-- Every piece id, ascending. -/
def allPieces : List PieceId := List.finRange 48

/-! ### Entries -/

def entryOf (t : Tag) (s : State) : Option Entry := s.rqt.entries[t]

def setEntry (t : Tag) (e : Option Entry) (s : State) : State :=
  s.setRqt { s.rqt with entries := s.rqt.entries.set t e }

def modEntry (t : Tag) (f : Entry → Entry) (s : State) : State := setEntry t ((entryOf t s).map f) s

/-- R17: the free segment count. -/
def freeSegments (s : State) : Nat :=
  Config.segmentRecords - (s.rqt.entries.toList.map fun e => (e.map (·.segments.length)).getD 0).sum

/-! ### Pieces and port queues -/

def pieceOf (id : PieceId) (s : State) : Option Piece := s.psc.pieces[id]

def setPiece (id : PieceId) (p : Option Piece) (s : State) : State :=
  s.setPsc { s.psc with pieces := s.psc.pieces.set id p }

def modPiece (id : PieceId) (f : Piece → Piece) (s : State) : State := setPiece id ((pieceOf id s).map f) s

/-- R54: the number of free piece records. -/
def freeRecords (s : State) : Nat := s.psc.pieces.toList.countP (·.isNone)

/-- R54: the lowest-numbered free record. -/
def lowestFree (s : State) : Option PieceId := allPieces.find? fun id => (pieceOf id s).isNone

def queueOf (p : PortId) (s : State) : List PieceId := s.psc.queues[p]

/-- R58: a piece joins a port queue at its tail. -/
def joinQueue (p : PortId) (id : PieceId) (s : State) : State :=
  s.setPsc { s.psc with queues := s.psc.queues.set p (queueOf p s ++ [id]) }

/-- R58: the piece at the front of a port queue. -/
def headOf (p : PortId) (s : State) : Option (PieceId × Piece) :=
  match (queueOf p s).head? with
  | none => none
  | some id => (pieceOf id s).map (id, ·)

/-- The ids of the in-use pieces that a test holds of. -/
def piecesWhere (q : Piece → Bool) (s : State) : List PieceId :=
  allPieces.filter fun id => (pieceOf id s).any q

/-! ### Ports -/

def portOf (p : PortId) (s : State) : Port := s.ports[p]

def setPort (p : PortId) (x : Port) (s : State) : State := s.setPorts (s.ports.set p x)

def modPort (p : PortId) (f : Port → Port) (s : State) : State := setPort p (f (portOf p s)) s

/-- What the part sends on a media port joins the record of the outgoing lines. -/
def sendMedia (p : PortId) (o : MediaOut) (s : State) : State :=
  s.setOut { s.out with media := s.out.media ++ [(p, o)] }

/-! ### Slots (R60 to R62) -/

/-- R60: released slots join the back of the free list in the order of the slot list. -/
def releaseSlots (l : List SlotId) (s : State) : State := s.setSpa { s.spa with free := s.spa.free ++ l }

def slotContent (k : SlotId) (s : State) : Block := s.spa.slots[k]

def writeSlot (k : SlotId) (b : Block) (s : State) : State :=
  s.setSpa { s.spa with slots := s.spa.slots.set k b }

/-- R61: the ports in rotating order after `p`, ending with `p` itself. -/
def rotation (p : PortId) : List PortId := [p + 1, p + 2, p + 3, p]

/-- R60: the claim of a port's head: its count, when the port is READY and the head is an RD, WR or CP piece in its
source phase that holds no slots. -/
def claimOf (p : PortId) (s : State) : Option Nat :=
  if (portOf p s).state = .ready then
    match headOf p s with
    | none => none
    | some (_, q) =>
      if (q.kind = .rd ∨ q.kind = .wr ∨ q.kind = .cp) ∧ q.state = .queued ∧ q.slots = [] then some q.count
      else none
  else none

/-- R62: the ports that the reserve passes to when port `p` gives it up, in rotating order from the pointer: those that
wait for it, and those at the limit with a claim, whose count a link reset has kept (log 12). -/
def reserveAfter (p : PortId) (s : State) : List PortId :=
  (rotation s.spa.pointer).filter fun q =>
    q ≠ p && (q ∈ s.spa.reserve || s.spa.passOver[q] = Config.passOverLimit && (claimOf q s).isSome)

/-- R61, R62: a claim is withdrawn before it is granted: the pass-over count returns to 0, and a reserve that the port
held passes on. MODEL'S CHOICE (log 26): an exit of the port from READY sets the count to 0 also when its head holds no
claim. -/
def withdrawClaim (p : PortId) (s : State) : State :=
  s.setSpa { s.spa with
    passOver := s.spa.passOver.set p 0
    reserve := if s.spa.reserve.head? = some p then reserveAfter p s else s.spa.reserve.filter (· ≠ p) }

/-- A piece leaves the port queue that holds it; a claim it held as a head is withdrawn (R61). -/
def leaveQueues (id : PieceId) (s : State) : State :=
  let claiming := allPorts.filter fun p => (queueOf p s).head? = some id ∧ (claimOf p s).isSome
  let s := claiming.foldl (fun s p => withdrawClaim p s) s
  s.setPsc { s.psc with queues := mapVec (leaveSet id) s.psc.queues }

/-! ### The transmit list (R176) -/

def handFrame (f : TxFrame) (s : State) : State := s.setUlc { s.ulc with tx := s.ulc.tx ++ [f] }

/-- Frames still in the list that `q` names are withdrawn and not sent. -/
def withdrawFrames (q : TxFrame → Bool) (s : State) : State :=
  s.setUlc { s.ulc with tx := s.ulc.tx.filter fun f => !q f }

/-- A frame has been sent in full: it leaves the list and crosses the link. -/
def frameLeaves (f : HostFrame) (s : State) : State :=
  (s.setUlc { s.ulc with tx := s.ulc.tx.tail }).setOut { s.out with sent := s.out.sent ++ [f] }

/-! ### Grants (R63 to R65) -/

/-- The block positions of a grant that are filled: those of its piece, or of the management data buffer. -/
def filledOf (g : Grant) (s : State) : List Nat :=
  match g.target with
  | .piece id => ((pieceOf id s).map (·.filled)).getD []
  | .buffer => (List.range 2).filter fun i => (s.mgu.buffer[(Fin.ofNat 2 i)]).isSome

/-- The block positions of a grant that are still missing, ascending. -/
def missingOf (g : Grant) (s : State) : List Nat :=
  (List.range g.count).filter fun i => i ∉ filledOf g s

/-- A grant record is removed, and its GRANT frame is withdrawn if it has not left (R176). -/
def removeGrant (g : Grant) (s : State) : State :=
  withdrawFrames (fun f => f = .grant g.tag g.first g.count)
    (s.setUlc { s.ulc with grants := s.ulc.grants.filter (· ≠ g) })

/-- R65: a grant is withdrawn: its unfilled offsets join the tag's withdrawn set. -/
def withdrawGrant (g : Grant) (s : State) : State :=
  let old := s.ulc.withdrawn[g.tag]
  let offs := ((missingOf g s).map (g.first + ·)).filter (· ∉ old)
  removeGrant g (s.setUlc { s.ulc with withdrawn := s.ulc.withdrawn.set g.tag (old ++ offs) })

/-- Withdraws every grant that a test names. -/
def withdrawGrants (q : Grant → Bool) (s : State) : State :=
  (s.ulc.grants.filter q).foldl (fun s g => withdrawGrant g s) s

/-- R63, R117: a grant is recorded and its GRANT frame is handed over; its timer starts. -/
def openGrant (g : Grant) (s : State) : State :=
  handFrame (.grant g.tag g.first g.count) (s.setUlc { s.ulc with grants := s.ulc.grants ++ [g] })

/-! ### Completions (R41) -/

/-- R41, R180: the completion record of this event. -/
def completionOf (t : Tag) (o : ReqOutcome) (c : Cause) (remaining detail : Nat) (s : State) : Completion :=
  ⟨t, o, c, attention s, s.svm.partState, remaining, s.xmp.generation, BitVec.ofNat 32 detail⟩

/-- R41: RQT hands a CMPL frame to ULC. -/
def sendCmpl (t : Tag) (o : ReqOutcome) (c : Cause) (remaining detail : Nat) (s : State) : State :=
  handFrame (.cmpl (completionOf t o c remaining detail s) false) s

/-- R41: an entry returns to FREE: with it go its segment records, its place in every queue, list and wait set, in
the sets of an active move, and the grants still recorded for its tag. -/
def freeEntry (t : Tag) (s : State) : State :=
  let s := withdrawGrants (fun g => g.tag = t) s
  let s := s.setMve (s.mve.map fun m => { m with dual := leaveSet t m.dual, blocking := leaveSet t m.blocking })
  let entries := mapVec (Option.map fun e => { e with waitSet := leaveSet t e.waitSet }) s.rqt.entries
  s.setRqt {
    entries := entries.set t none
    intake := leaveSet t s.rqt.intake
    mgmt := leaveSet t s.rqt.mgmt
    active := leaveSet t s.rqt.active
    barrier := leaveSet t s.rqt.barrier
    flushing := leaveSet t s.rqt.flushing }

/-- R41: a request completes. -/
def complete (t : Tag) (o : ReqOutcome) (c : Cause) (remaining detail : Nat) (s : State) : State :=
  freeEntry t (sendCmpl t o c remaining detail s)

end Sys2Proof.Machine
end

