-- ==== Sys2Proof/Machine/Map.lean ====
section
/-! DEFINITION. The extent map: policies, lookup, validation, resolution into segments, and the identity map
(R1 to R19, R121). -/

namespace Sys2Proof.Machine

/-! ### Records and ranges -/

/-- A record that describes an extent. -/
def isUsed (e : Extent) : Bool := e.used = 1

/-- The port number of a record whose port field names a port. -/
def extentPort (e : Extent) : PortId := Fin.ofNat 4 e.port.toNat

/-- R1: one past the logical end. -/
def logicalStop (e : Extent) : Nat := e.lstart.toNat + e.length.toNat

/-- R1: one past the physical end. -/
def physicalStop (e : Extent) : Nat := e.pstart.toNat + e.length.toNat

/-- R6: the record covers a block of a unit. -/
def coversBlock (unit : Byte) (lba : Nat) (e : Extent) : Bool :=
  isUsed e && e.unit = unit && e.lstart.toNat ≤ lba && lba < logicalStop e

/-- R6: the extent that covers a block, searched in index order. -/
def findExtent (m : ExtMap) (unit : Byte) (lba : Nat) : Option Extent := m.toList.find? (coversBlock unit lba)

/-- The number of used records. -/
def usedCount (m : ExtMap) : Nat := m.toList.countP isUsed

/-- R2: a table with every move state NORMAL. -/
def settleMap (m : ExtMap) : ExtMap := mapVec (fun e => { e with moving := false }) m

/-- Two ranges [a, b) and [c, d) share a block. -/
def rangesMeet (a b c d : Nat) : Bool := a < d && c < b

/-! ### The shape of a map (R5, R121) -/

/-- R121: the field-code test. -/
def fieldCodesGood (e : Extent) : Bool :=
  e.used = 0 || (e.used = 1 && e.unit.toNat ≤ 3 && e.port.toNat ≤ 3 && e.length ≠ 0 && e.policy ≠ 3)

/-- R121: the tests of a used record against itself and the records with lower indexes (`below`, in index order). -/
def recordGood (below : List Extent) (e : Extent) : Bool :=
  fieldCodesGood e &&
  (e.used = 0 ||
    (below.all isUsed &&
     logicalStop e ≤ 4294967296 && physicalStop e ≤ 4294967296 &&
     (match below.getLast? with
      | none => true
      | some b =>
        (b.unit.toNat < e.unit.toNat || (b.unit = e.unit && b.lstart.toNat < e.lstart.toNat)) &&
        !(b.unit = e.unit && e.lstart.toNat < logicalStop b)) &&
     below.all fun b => !(isUsed b && b.port = e.port &&
       rangesMeet b.pstart.toNat (physicalStop b) e.pstart.toNat (physicalStop e))))

/-- R121: the first bad index from index `below.length` on. -/
def firstBadFrom (below : List Extent) : List Extent → Option Nat
  | [] => none
  | e :: es => if recordGood below e then firstBadFrom (below ++ [e]) es else some below.length

/-- R121: the first bad index of a table, if any. -/
def firstBadIndex (m : ExtMap) : Option Nat := firstBadFrom [] m.toList

/-! ### Policy (R3, R11) -/

/-- R3: why a block is refused to a request kind. -/
def policyRefusal (k : Kind) (e : Option Extent) : Option Cause :=
  match e with
  | none => some .range
  | some e =>
    if e.policy = 0 then none
    else if e.policy = 1 then (if k = .write then some .writeProtected else none)
    else some .range

/-- R11: the first of `n` blocks from `lba` on that a check refuses, with its cause. -/
def firstRefused (m : ExtMap) (k : Kind) (unit : Byte) : Nat → Nat → Option (Cause × Nat)
  | _, 0 => none
  | lba, n + 1 =>
    match policyRefusal k (findExtent m unit lba) with
    | some c => some (c, lba)
    | none => firstRefused m k unit (lba + 1) n

/-! ### Segments (R12, R14, R15) -/

/-- R14: one run of a divided segment: the extent offsets [a, b), where the extent's segment starts at extent offset
`e0` and request offset `off`; absent when it holds no block. -/
def divided (off e0 : Nat) (port : PortId) (start : Nat) (verify : Bool) (a b : Nat) (target : Target) :
    List Segment :=
  if a < b then [⟨off + (a - e0), b - a, port, start + (a - e0), verify, target⟩] else []

/-- R14: the target kinds along the segment of a WRITE in the MOVING extent, its extent offsets being [e0, e1). -/
def divideByMove (mv : Move) (off e0 e1 : Nat) (port : PortId) (start : Nat) (verify : Bool) : List Segment :=
  let c := mv.cursor
  let d := c + (mv.chunk.map (·.count)).getD 0
  let at' := fun x => mv.dstStart + x
  divided off e0 port start verify e0 (min e1 c) (.dual mv.dstPort (at' e0)) ++
  divided off e0 port start verify (max e0 c) (min e1 d) (.dualAfterChunk mv.dstPort (at' (max e0 c))) ++
  divided off e0 port start verify (max e0 d) e1 .single

/-- R12, R14: the segments of the blocks [lba, lba + count) that lie in one used extent. -/
def segmentsIn (mve : Option Move) (k : Kind) (lba count : Nat) (e : Extent) : List Segment :=
  let a := max lba e.lstart.toNat
  let b := min (lba + count) (logicalStop e)
  if a < b then
    let off := a - lba
    let e0 := a - e.lstart.toNat
    let start := e.pstart.toNat + e0
    match (if k = .write ∧ e.moving then mve else none) with
    | some mv => divideByMove mv off e0 (b - e.lstart.toNat) (extentPort e) start e.verify
    | none => [⟨off, b - a, extentPort e, start, e.verify, .single⟩]
  else []

/-- R12: the segment list of a request, in ascending logical order. -/
def segmentsOf (m : ExtMap) (mve : Option Move) (k : Kind) (unit : Byte) (lba count : Nat) : List Segment :=
  (m.toList.filter fun e => isUsed e && e.unit = unit).flatMap (segmentsIn mve k lba count)

/-- R14: a segment of a dual target kind. -/
def isDual (g : Segment) : Bool := g.target ≠ .single

/-! ### FLUSH and the identity map -/

/-- R18: the ports that hold a used extent of a unit, and the destination port of a move of an extent of the unit,
ascending. -/
def flushPorts (m : ExtMap) (mve : Option Move) (unit : Byte) : List PortId :=
  allPorts.filter fun p =>
    (m.toList.any fun e => isUsed e && e.unit = unit && extentPort e = p) ||
      mve.any fun mv => mv.unit = unit && mv.dstPort = p

/-- R19: the extent of the identity map at index `n`. -/
def identityExtent (n : Fin 4) : Extent :=
  ⟨1, BitVec.ofNat 8 n, BitVec.ofNat 8 n, 0, false, false, 0, 4294967295, 0⟩

/-- R19: the identity map. -/
def identityMap : ExtMap :=
  ((((ExtMap.empty.set 0 (identityExtent 0)).set 1 (identityExtent 1)).set 2 (identityExtent 2)).set 3
    (identityExtent 3))

end Sys2Proof.Machine
end

