-- ==== Sys2Proof/Machine/Pieces.lean ====
section
/-! DEFINITION. Piece ends and what they do to the owning request: done set, failure point, draining, completion
(R32 to R40, R48, R72). -/

namespace Sys2Proof.Machine

/-! ### The cut cursor and the completion test -/

/-- R31, R36: the request offset of the first block not yet cut. -/
def cutOffset (e : Entry) : Nat :=
  match e.segments[e.cutSeg]? with
  | some g => g.offset + e.cutOff
  | none => e.count

/-- R36: the cutter cuts no block at or above the failure point. -/
def cutLimit (e : Entry) : Nat :=
  match e.failure with
  | some (f, _) => min f e.count
  | none => e.count

/-- R39: some block remains that the cutter may cut. -/
def cuttable (e : Entry) : Bool := !e.cancelTaken && cutOffset e < cutLimit e

/-- R33: the length of the run of offsets `k`, `k + 1` and onward in the done set, over at most `n` offsets. -/
def doneRun (done : List Nat) : Nat → Nat → Nat
  | 0, _ => 0
  | n + 1, k => if k ∈ done then doneRun done n (k + 1) + 1 else 0

/-- R33: the count remaining. -/
def remainingOf (e : Entry) : Nat := e.count - doneRun e.done e.count 0

/-- R40: the completion of a resolved READ, WRITE or VERIFY. -/
def completeData (t : Tag) (e : Entry) (s : State) : State :=
  match e.failure with
  | some (f, c) => complete t .failed c (remainingOf e) (e.lba.toNat + f) s
  | none =>
    if remainingOf e = 0 then complete t .good .none 0 0 s
    else complete t .cancelled .none (remainingOf e) 0 s

/-- R48: the completion of an ACTIVE FLUSH with no port marked uncut or cut. -/
def completeFlush (t : Tag) (e : Entry) (s : State) : State :=
  match e.failure with
  | some (p, c) => complete t .failed c 0 p s
  | none =>
    if e.flPorts.all (·.2 = .done) then complete t .good .none 0 0 s
    else complete t .cancelled .none 0 0 s

/-- R39, R48: completes a request at the event at which nothing of it remains. -/
def tryComplete (t : Tag) (s : State) : State :=
  match entryOf t s with
  | none => s
  | some e =>
    if e.state = .active ∨ e.state = .draining then
      if namesBlocks e.kind then
        if e.notEnded = 0 ∧ !cuttable e then completeData t e s else s
      else if e.kind = .flush then
        if e.flPorts.all (fun q => q.2 ≠ .uncut ∧ q.2 ≠ .cut) then completeFlush t e s else s
      else s
    else s

/-- R31: a request leaves the active list when no block of it remains to cut. -/
def trimActive (t : Tag) (s : State) : State :=
  match entryOf t s with
  | none => s
  | some e => if cuttable e then s else s.setRqt { s.rqt with active := leaveSet t s.rqt.active }

/-! ### A piece leaves the part -/

/-- R72: a piece's record is freed: it leaves its queue and the SHADOW_WAIT order, its grant is withdrawn (R65), its
frame in the transmit list is withdrawn (R176), its slots are released (R60), and MVE's sets forget it (R105). -/
def detachPiece (id : PieceId) (s : State) : State :=
  match pieceOf id s with
  | none => s
  | some p =>
    let s := withdrawGrants (fun g => g.target = .piece id) s
    let s := withdrawFrames (fun | .readData i _ _ _ => i = id | _ => false) s
    let s := leaveQueues id s
    let s := releaseSlots p.slots s
    let s := setPiece id none (s.setPsc { s.psc with waiting := leaveSet id s.psc.waiting })
    s.setMve (s.mve.map fun m => {
      m with shadows := leaveSet id m.shadows, piece := if m.piece = some id then none else m.piece })

/-- R48: marks one port of a FLUSH. -/
def markPort (p : PortId) (mark : FlMark) (e : Entry) : Entry :=
  { e with flPorts := e.flPorts.map fun q => if q.1 = p then (q.1, mark) else q }

/-- R32: the count of pieces not ended falls. -/
def onePieceLess (e : Entry) : Entry := { e with notEnded := e.notEnded - 1 }

/-- R32, R48: a piece of a request ends DROPPED. -/
def dropPiece (t : Tag) (id : PieceId) (s : State) : State :=
  match pieceOf id s with
  | none => s
  | some p =>
    modEntry t (fun e => onePieceLess (if e.kind = .flush then markPort p.port .dropped e else e))
      (detachPiece id s)

/-- Drops the pieces of a request that a test names, in ascending id (log 7). -/
def dropPieces (t : Tag) (q : Piece → Bool) (s : State) : State :=
  (piecesWhere (fun p => p.owner = .tag t && q p) s).foldl (fun s id => dropPiece t id s) s

/-- R35: the pieces that draining at offset `f` drops. -/
def drainedBy (f : Nat) (p : Piece) : Bool :=
  f ≤ p.offset && (p.state = .queued || p.state = .filling || p.state = .delivering)

/-- R48: a FLUSH cuts no further FL piece: its uncut ports are dropped and its QUEUED pieces end DROPPED. -/
def stopFlush (t : Tag) (s : State) : State :=
  let s := modEntry t (fun e => {
    e with flPorts := e.flPorts.map fun q => if q.2 = .uncut then (q.1, .dropped) else q }) s
  let s := s.setRqt { s.rqt with flushing := leaveSet t s.rqt.flushing }
  dropPieces t (fun p => p.state = .queued) s

/-! ### Outcomes at the owner -/

/-- R72: the outcome of a piece; FAILED carries an index and a cause. -/
inductive PieceOutcome where
  | done
  | failed (index : Nat) (cause : Cause)
  | dropped
  deriving DecidableEq, Repr

/-- R34: whether a failing offset sets or lowers the failure point. -/
def lowersFailure (e : Entry) (off : Nat) : Bool :=
  match e.failure with
  | none => true
  | some (f, _) => off < f

/-- R32, R34, R35: a READ, WRITE or VERIFY takes the outcome of a piece. -/
def dataOutcome (t : Tag) (e : Entry) (p : Piece) (o : PieceOutcome) (s : State) : State :=
  let e := onePieceLess e
  match o with
  | .done => tryComplete t (setEntry t (some { e with done := e.done ++ (List.range p.count).map (p.offset + ·) }) s)
  | .dropped => tryComplete t (setEntry t (some e) s)
  | .failed k c =>
    if lowersFailure e (p.offset + k) then
      let s := setEntry t (some { e with failure := some (p.offset + k, c), state := .draining }) s
      tryComplete t (trimActive t (dropPieces t (drainedBy (p.offset + k)) s))
    else tryComplete t (setEntry t (some e) s)

/-- R48: a FLUSH takes the outcome of an FL piece. -/
def flushOutcome (t : Tag) (e : Entry) (p : Piece) (o : PieceOutcome) (s : State) : State :=
  let e := onePieceLess e
  match o with
  | .done => tryComplete t (setEntry t (some (markPort p.port .done e)) s)
  | .dropped => tryComplete t (setEntry t (some (markPort p.port .dropped e)) s)
  | .failed _ c =>
    let e := markPort p.port .failed e
    if e.failure.isNone then
      tryComplete t (stopFlush t (setEntry t (some { e with failure := some (p.port.val, c), state := .draining }) s))
    else tryComplete t (setEntry t (some e) s)

/-- R72: the outcome of a piece goes to the request that owns it. -/
def requestOutcome (t : Tag) (p : Piece) (o : PieceOutcome) (s : State) : State :=
  match entryOf t s with
  | none => s
  | some e => if e.kind = .flush then flushOutcome t e p o s else dataOutcome t e p o s

/-- R91: a DONE clears the fault count of a READY port. -/
def clearFaults (p : PortId) (s : State) : State :=
  modPort p (fun x => if x.state = .ready then { x with faults := 0 } else x) s

/-- R72: a piece ends. `at'` is the port on which it last worked, when the outcome is a DONE that clears its count.
An outcome of owner MOVE goes to MVE by the operations of Machine/Move; one of DISCARD goes to no one. -/
def pieceEnds (id : PieceId) (o : PieceOutcome) (at' : Option PortId) (s : State) : State :=
  match pieceOf id s with
  | none => s
  | some p =>
    let s := detachPiece id s
    let s := match at' with
      | some q => clearFaults q s
      | none => s
    match p.owner with
    | .tag t => requestOutcome t p o s
    | .move | .discard => s

end Sys2Proof.Machine
end

