-- ==== Sys2Proof/Machine/Move.lean ====
section
/-! DEFINITION. The move engine: chunks, the blocking set, copy pieces, shadow results, the switch and the abort
(R69 to R71, R96 to R114). -/

namespace Sys2Proof.Machine

/-! ### Extent offsets -/

/-- The LBA of an extent offset of the moving extent. -/
def moveLba (m : Move) (x : Nat) : Nat := m.lstart + x

/-- R103, R105: the detail of an abort by a failing destination block. -/
def failedLba (m : Move) (dst : Nat) : Nat := m.lstart + (dst - m.dstStart)

/-! ### The blocking set (R101) -/

/-- R101: a request's block at request offset `o` is not yet cut and still cuttable, or lies in a piece that has not
ended. -/
def blockUnfinished (t : Tag) (e : Entry) (o : Nat) (s : State) : Bool :=
  (!e.cancelTaken && cutOffset e ≤ o && o < cutLimit e) ||
    !(piecesWhere (fun p => p.owner = .tag t && p.offset ≤ o && o < p.offset + p.count) s).isEmpty

/-- R101: the request's block at request offset `o` lies in a segment that blocks a copy: a SINGLE segment, or a dual
one of a request that is not in the dual set. -/
def blocksCopy (m : Move) (t : Tag) (e : Entry) (o : Nat) : Bool :=
  e.segments.any fun g => g.offset ≤ o && o < g.offset + g.length && (g.target = .single || t ∉ m.dual)

/-- R101: a WRITE has an unfinished block over the chunk in flight. The block is named by the unit and the LBA, as
R56 names it (log 8). -/
def holdsChunk (m : Move) (t : Tag) (s : State) : Bool :=
  match entryOf t s, m.chunk with
  | some e, some ch =>
    e.kind = .write && e.unit = m.unit &&
      (List.range ch.count).any fun i =>
        let lba := moveLba m (m.cursor + i)
        e.lba.toNat ≤ lba && blocksCopy m t e (lba - e.lba.toNat) && blockUnfinished t e (lba - e.lba.toNat) s
  | _, _ => false

/-- R101: tags leave the blocking set at the first event after which none of their blocks is unfinished. -/
def refreshBlocking (s : State) : State :=
  match s.mve with
  | none => s
  | some m => s.setMve (some { m with blocking := m.blocking.filter fun t => holdsChunk m t s })

/-- R100, R101: the chunk at the cursor is fixed in phase HELD and its blocking set is computed. -/
def fixChunk (m : Move) (s : State) : State :=
  let m := { m with chunk := some ⟨min Config.pieceBlocks (m.length - m.cursor), .held⟩ }
  s.setMve (some { m with blocking := allTags.filter fun t => holdsChunk m t s })

/-! ### Abort (R109 to R111) -/

/-- R71, R111: an abort acts on a piece of the shadow set. -/
def abortPiece (id : PieceId) (s : State) : State :=
  match pieceOf id s with
  | none => s
  | some p =>
    if p.kind = .cp then
      match p.state with
      | .queued => detachPiece id s
      | .shadow => modPiece id (fun p => { p with owner := .discard }) s
      | _ => modPiece id (fun p => { p with owner := .discard, shadow := none }) s
    else
      match p.state with
      | .shadow => s
      | .shadowWait => pieceEnds id .done none s
      | _ => modPiece id (fun p => { p with shadow := none }) s

/-- R110: the active move is aborted; `report` says whether a completion is sent for its tag. Pieces in SHADOW_WAIT
end in the order in which they entered it, and the WRITE requests that this completes are answered before the MOVE
(log 7). -/
def abortMove (o : ReqOutcome) (c : Cause) (detail : Nat) (report : Bool) (s : State) : State :=
  match s.mve with
  | none => s
  | some m =>
    let s := (s.setXmp { s.xmp with active := settleMap s.xmp.active }).setMve none
    let ids := s.psc.waiting ++ m.shadows.filter (· ∉ s.psc.waiting)
    let s := ids.foldl (fun s id => abortPiece id s) s
    if report then complete m.tag o c 0 detail s else s

/-- R109: MPC reports a port's exit from READY: a move from or to that port is aborted. MODEL'S CHOICE (log 25): it is
aborted, and not switched, also when the pieces that this exit has failed were the last that the switch waited for. -/
def portExitAborts (p : PortId) (c : Cause) (s : State) : State :=
  match s.mve with
  | none => s
  | some m => if m.srcPort = p ∨ m.dstPort = p then abortMove .failed c m.cursor true s else s

/-! ### Failing pieces -/

/-- R103, R105: the LBA that an abort by this piece of the move names, when the piece is in the shadow set. -/
def moveFailure (id : PieceId) (p : Piece) (k : Nat) (s : State) : Option Nat :=
  match s.mve, p.shadow with
  | some m, some sh => if id ∈ m.shadows then some (failedLba m (sh.start + k)) else none
  | _, _ => none

/-- Aborts the move with the LBA of a failing block, if one is named. -/
def abortAt (lba : Option Nat) (c : Cause) (s : State) : State :=
  match lba with
  | some d => abortMove .failed c d true s
  | none => s

/-- R72: a piece fails in its source phase at index `k`. The failure of a CP piece of the move aborts it (R103). -/
def sourceFails (id : PieceId) (k : Nat) (c : Cause) (s : State) : State :=
  match pieceOf id s with
  | none => s
  | some p =>
    let lba := if p.owner = .move then moveFailure id p k s else none
    let s := modPiece id (fun p => { p with failure := some (k, c) }) s
    abortAt lba c (pieceEnds id (.failed k c) none s)

/-- R70, R105: the destination phase of a piece fails at index `k`. A WR piece ends DONE to its request, a CP piece
FAILED; the shadow result of a piece in the shadow set aborts the move. MODEL'S CHOICE (log 7): a WRITE that this end
completes is answered before the MOVE, whatever the tags. -/
def destFails (id : PieceId) (k : Nat) (c : Cause) (s : State) : State :=
  match pieceOf id s with
  | none => s
  | some p =>
    let lba := moveFailure id p k s
    let s := if p.kind = .cp then
        pieceEnds id (.failed k c) none (modPiece id (fun p => { p with failure := some (k, c) }) s)
      else pieceEnds id .done none s
    abortAt lba c s

/-- R80: a piece fails in the phase that it is in. -/
def pieceFails (id : PieceId) (k : Nat) (c : Cause) (s : State) : State :=
  match pieceOf id s with
  | none => s
  | some p => if p.state = .shadow then destFails id k c s else sourceFails id k c s

/-- R57, R80, R81: the cause that a port out of service gives. -/
def outOfService (st : PortState) : Option Cause :=
  match st with
  | .down => some .portDown
  | .offline => some .portOffline
  | .probing | .ready | .recovering => none

/-! ### The destination phase (R69, R70) -/

/-- R70: a piece joins the tail of its destination queue; on a port out of service its phase ends there (R81). -/
def joinDestination (id : PieceId) (s : State) : State :=
  match (pieceOf id s).bind (·.shadow) with
  | none => s
  | some sh =>
    let s := modPiece id (fun p => { p with state := .shadow, shadow := some { sh with state := .queued } }) s
    match outOfService (portOf sh.port s).state with
    | some c => destFails id 0 c s
    | none => joinQueue sh.port id s

/-- R70: the chunk in flight covers at least one block of a piece, by extent offset. -/
def chunkCovers (s : State) (sh : Shadow) (count : Nat) : Bool :=
  match s.mve with
  | none => false
  | some m =>
    match m.chunk with
    | none => false
    | some ch =>
      rangesMeet (m.dstStart + m.cursor) (m.dstStart + m.cursor + ch.count) sh.start (sh.start + count)

/-- R70: the source phase of a WR piece ends well. -/
def sourceEnds (id : PieceId) (s : State) : State :=
  match pieceOf id s with
  | none => s
  | some p =>
    match p.shadow with
    | none => pieceEnds id .done (some p.port) s
    | some sh =>
      let s := leaveQueues id s
      if sh.afterChunk && chunkCovers s sh p.count then
        modPiece id (fun p => { p with state := .shadowWait, shadow := some { sh with state := .waiting } })
          (s.setPsc { s.psc with waiting := s.psc.waiting ++ [id] })
      else joinDestination id s

/-- R103: the CP piece of the chunk has ended DONE: the cursor advances, the pieces that wait on the chunk join the
destination queue, and the next chunk is fixed or the context goes to SWITCH_PENDING when the switch cannot be
taken (R107). -/
def advanceCursor (s : State) : State :=
  match s.mve with
  | none => s
  | some m =>
    let cursor := m.cursor + (m.chunk.map (·.count)).getD 0
    let ids := s.psc.waiting
    let s := (s.setMve (some { m with cursor := cursor, chunk := none })).setPsc { s.psc with waiting := [] }
    let s := ids.foldl (fun s id => joinDestination id s) s
    match s.mve with
    | none => s
    | some m =>
      if m.cursor < m.length then fixChunk m s
      else if m.dual ≠ [] ∨ storeBusy s then s.setMve (some { m with pending := true })
      else s

/-- R70: the destination phase of a piece ends well: it ends DONE; the CP piece of the move advances the cursor. -/
def destEnds (id : PieceId) (s : State) : State :=
  match pieceOf id s with
  | none => s
  | some p =>
    let s' := pieceEnds id .done (p.shadow.map (·.port)) s
    if p.owner = .move then advanceCursor s' else s'

/-! ### The switch (R106) -/

/-- R106: the conditions of the switch. -/
def switchReady (m : Move) (s : State) : Bool := m.cursor = m.length && m.dual = [] && !storeBusy s

/-- R106: the extent of the move takes its destination as its place. -/
def switchExtent (m : Move) (e : Extent) : Extent :=
  if e.moving then
    { e with port := BitVec.ofNat 8 m.dstPort, pstart := BitVec.ofNat 32 m.dstStart, moving := false }
  else e

/-- R106: the switch. -/
def switchMove (m : Move) (s : State) : State :=
  let s := (s.setXmp {
    s.xmp with active := mapVec (switchExtent m) s.xmp.active, generation := s.xmp.generation + 1 }).setMve none
  complete m.tag .good .none 0 0 s

/-- R106: the switch is taken, when it can be. -/
def switchStep (s : State) : Option State :=
  match s.mve with
  | none => none
  | some m => if switchReady m s then some (switchMove m s) else none

/-- R93, R106: the switch that the end of the piece at media has made due is taken before the exit of the port that
follows that end (log 25). -/
def takeSwitch (s : State) : State := (switchStep s).getD s

/-! ### The MOVE request (R98, R99) -/

/-- R98: the index and record of the used extent that a unit and a logical start name. -/
def namedExtent (m : ExtMap) (unit : Byte) (lstart : Word) : Option (Nat × Extent) :=
  (m.toList.zipIdx.map fun x => (x.2, x.1)).find? fun x => isUsed x.2 && x.2.unit = unit && x.2.lstart = lstart

/-- R98: the lowest index of an extent on a port whose physical range meets [a, b). -/
def firstOverlap (m : ExtMap) (p : PortId) (a b : Nat) : Option Nat :=
  m.toList.findIdx? fun e => isUsed e && extentPort e = p && rangesMeet a b e.pstart.toNat (physicalStop e)

/-- R98: the result of the checks: a refusal with its cause and detail, or the move context of R99. -/
def moveChecks (t : Tag) (p0 p1 p2 : Word) (s : State) : (Cause × Nat) ⊕ Move :=
  if s.svm.partState = .bare then .inl (.noMap, 0)
  else if s.mst.lock then .inl (.locked, 0)
  else if s.svm.partState = .fenced then .inl (.fenced, 0)
  else if s.mve.isSome then .inl (.moveActive, 0)
  else
    match namedExtent s.xmp.active (moveUnit p0) p1 with
    | none => .inl (.badParam, 0)
    | some (_, e) =>
      if 3 < (moveUnit p0).toNat ∨ 3 < (movePort p0).toNat ∨ 4294967296 < p2.toNat + e.length.toNat then
        .inl (.badParam, 0)
      else
        let src := extentPort e
        let dst : PortId := Fin.ofNat 4 (movePort p0).toNat
        if (portOf src s).state ≠ .ready then .inl (.portOffline, src.val)
        else if (portOf dst s).state ≠ .ready then .inl (.portOffline, dst.val)
        else
          match firstOverlap s.xmp.active dst p2.toNat (p2.toNat + e.length.toNat) with
          | some i => .inl (.overlap, i)
          | none => .inr {
              pending := false, tag := t, unit := e.unit, lstart := e.lstart.toNat, length := e.length.toNat,
              srcPort := src, srcStart := e.pstart.toNat, dstPort := dst, dstStart := p2.toNat,
              verify := e.verify, cursor := 0, chunk := none, piece := none, blocking := [], dual := [],
              shadows := [] }

/-- R99: the record of the moving extent becomes MOVING. -/
def markMoving (m : Move) (e : Extent) : Extent :=
  if isUsed e ∧ e.unit = m.unit ∧ e.lstart.toNat = m.lstart then { e with moving := true } else e

/-- R98, R99: MVE takes a MOVE request. -/
def startMove (t : Tag) (p0 p1 p2 : Word) (s : State) : State :=
  match moveChecks t p0 p1 p2 s with
  | .inl (c, detail) => complete t .refused c 0 detail s
  | .inr m => fixChunk m (s.setXmp { s.xmp with active := mapVec (markMoving m) s.xmp.active })

end Sys2Proof.Machine
end

