-- ==== Sys2Proof/Machine/Slots.lean ====
section
/-! DEFINITION. The slot arbiter, the cutter and the other claims on piece records, and the placement of a cut piece
(R48, R54 to R57, R60 to R63, R102). Each step that the part takes by itself is a function to `some` next state, or
to `none` while the step cannot be taken. -/

namespace Sys2Proof.Machine

/-! ### The slot arbiter (R61, R62) -/

/-- A claim that fits the free slots. -/
def fits (s : State) (p : PortId) : Option (PortId × Nat) :=
  match claimOf p s with
  | some n => if n ≤ s.spa.free.length then some (p, n) else none
  | none => none

/-- R61, R62: the claim that a consideration grants: the reserve holder's alone, or the first that fits in rotating
order. -/
def chosenClaim (s : State) : Option (PortId × Nat) :=
  match s.spa.reserve with
  | h :: _ => fits s h
  | [] => (rotation s.spa.pointer).findSome? (fits s)

/-- R61: a port other than the granted one that holds a claim of more than `left` slots. -/
def passedOver (p : PortId) (left : Nat) (s : State) (q : PortId) : Bool :=
  q ≠ p && (claimOf q s).any (left < ·)

/-- R61, R62: SPA's own state after a grant of `n` slots to port `p`. A port joins the reserve order when this grant
passes it over and its count stands at the limit (log 12). -/
def spaAfterGrant (p : PortId) (n : Nat) (s : State) : Spa :=
  let left := s.spa.free.drop n
  let counts := (s.spa.passOver.set p 0)
  let counts := allPorts.foldl (fun (v : Vector Nat 4) q =>
    if passedOver p left.length s q then v.set q (min Config.passOverLimit (v[q] + 1)) else v) counts
  let held := s.spa.reserve.filter (· ≠ p)
  let newly := (rotation p).filter fun q =>
    counts[q] = Config.passOverLimit ∧ passedOver p left.length s q ∧ q ∉ held
  { s.spa with free := left, pointer := p, passOver := counts, reserve := held ++ newly }

/-- R63: the granted head: a WR piece goes to FILLING and its GRANT is sent; an RD or CP piece holds its slots, and
its read is sent at the same event (`serveHeads`). -/
def grantHead (id : PieceId) (q : Piece) (slots : List SlotId) (s : State) : State :=
  match q.kind, q.owner with
  | .wr, .tag t =>
    openGrant ⟨t, q.offset, q.count, .piece id⟩
      (setPiece id (some { q with slots := slots, state := .filling, filled := [] }) s)
  | _, _ => setPiece id (some { q with slots := slots }) s

/-- R61: SPA grants one claim. MODEL'S CHOICE (log 28): the claims are considered also at the event at which the reserve
ends because its holder's claim is withdrawn, with no slot released. -/
def slotGrantStep (s : State) : Option State :=
  match chosenClaim s with
  | none => none
  | some (p, n) =>
    match headOf p s with
    | none => none
    | some (id, q) => some (grantHead id q (s.spa.free.take n) (s.setSpa (spaAfterGrant p n s)))

/-! ### Placement (R57) -/

/-- R57: a piece just cut joins the queue of its port, or ends FAILED at its cut on a port out of service. -/
def placePiece (id : PieceId) (p : PortId) (s : State) : State :=
  match outOfService (portOf p s).state with
  | some c => sourceFails id 0 c s
  | none => joinQueue p id s

/-! ### The cutter (R55, R56) -/

/-- R56: a WR piece cut from a dual segment takes a shadow part while the move under which the request was resolved is
active. -/
def shadowFor (mve : Option Move) (t : Tag) (e : Entry) (g : Segment) (off count : Nat) : Option Shadow :=
  match mve with
  | none => none
  | some m =>
    let lba := e.lba.toNat + g.offset + off
    if e.unit = m.unit ∧ m.lstart ≤ lba ∧ lba + count ≤ m.lstart + m.length ∧ t ∈ m.dual then
      match g.target with
      | .single => none
      | .dual p st => some ⟨p, st + off, false, .pending⟩
      | .dualAfterChunk p st => some ⟨p, st + off, true, .pending⟩
    else none

/-- R55: the piece kind of a request kind. -/
def pieceKind (k : Kind) : PieceKind :=
  match k with
  | .read => .rd
  | .write => .wr
  | _ => .vf

/-- R55: the count of the next piece of an entry, cut from segment `g`. -/
def pieceCount (e : Entry) (g : Segment) : Nat :=
  min Config.pieceBlocks (min (g.length - e.cutOff) (cutLimit e - cutOffset e))

/-- R55: the piece that is cut next. -/
def nextPiece (mve : Option Move) (t : Tag) (e : Entry) (g : Segment) : Piece where
  owner := .tag t
  kind := pieceKind e.kind
  port := g.port
  start := g.start + e.cutOff
  count := pieceCount e g
  offset := cutOffset e
  verify := g.verify
  slots := []
  state := .queued
  filled := []
  shadow := if e.kind = .write then shadowFor mve t e g e.cutOff (pieceCount e g) else none
  failure := none

/-- R55: the entry after a cut of `n` blocks from segment `g`. -/
def afterCut (e : Entry) (g : Segment) (n : Nat) : Entry :=
  if e.cutOff + n = g.length then
    { e with cutSeg := e.cutSeg + 1, cutOff := 0, notEnded := e.notEnded + 1 }
  else { e with cutOff := e.cutOff + n, notEnded := e.notEnded + 1 }

/-- R105: a piece that is cut with a shadow part joins the shadow set. -/
def joinShadows (id : PieceId) (p : Piece) (s : State) : State :=
  if p.shadow.isSome then s.setMve (s.mve.map fun m => { m with shadows := joinSet id m.shadows }) else s

/-- R54: whether a FLUSH or MVE wants a piece record. -/
def claimWaits (s : State) : Bool :=
  s.rqt.flushing ≠ [] || s.mve.any fun m => m.chunk.any fun c => c.phase = .claim

/-- R55: one cut event. -/
def cutStep (s : State) : Option State :=
  if freeRecords s ≤ Config.heldBackRecords ∨ claimWaits s then none
  else
    match s.rqt.active, lowestFree s with
    | t :: _, some id =>
      match entryOf t s with
      | none => none
      | some e =>
        match e.segments[e.cutSeg]? with
        | none => none
        | some g =>
          if cuttable e then
            let p := nextPiece s.mve t e g
            let s := setEntry t (some (afterCut e g p.count)) s
            let s := joinShadows id p (setPiece id (some p) s)
            some (placePiece id p.port (trimActive t s))
          else none
    | _, _ => none

/-! ### FL pieces (R48) -/

/-- R51, R48: the FL piece of a FLUSH for a port. -/
def flPiece (t : Tag) (p : PortId) : Piece :=
  ⟨.tag t, .fl, p, 0, 1, 0, false, [], .queued, [], none, none⟩

/-- R48: the lowest uncut port of a FLUSH. -/
def uncutPort (e : Entry) : Option PortId := (e.flPorts.find? (·.2 = .uncut)).map (·.1)

/-- R48: the FLUSH resolved earliest cuts its next FL piece. -/
def flCutStep (s : State) : Option State :=
  match s.rqt.flushing, lowestFree s with
  | t :: _, some id =>
    match entryOf t s with
    | none => none
    | some e =>
      match uncutPort e with
      | none => none
      | some p =>
        let e := markPort p .cut { e with notEnded := e.notEnded + 1 }
        let s := setPiece id (some (flPiece t p)) (setEntry t (some e) s)
        let s := if (uncutPort e).isNone then s.setRqt { s.rqt with flushing := leaveSet t s.rqt.flushing } else s
        some (placePiece id p s)
  | _, _ => none

/-! ### CP pieces (R101, R102) -/

/-- R101: the blocking set of a HELD chunk is empty: the chunk goes to CLAIM. -/
def blockingStep (s : State) : Option State :=
  match s.mve with
  | none => none
  | some m =>
    match m.chunk with
    | some ⟨n, .held⟩ => if m.blocking = [] then some (s.setMve (some { m with chunk := some ⟨n, .claim⟩ })) else none
    | _ => none

/-- R69, R102: the CP piece of the chunk in flight. -/
def cpPiece (m : Move) (n : Nat) : Piece where
  owner := .move
  kind := .cp
  port := m.srcPort
  start := m.srcStart + m.cursor
  count := n
  offset := m.cursor
  verify := m.verify
  slots := []
  state := .queued
  filled := []
  shadow := some ⟨m.dstPort, m.dstStart + m.cursor, false, .pending⟩
  failure := none

/-- R102: MVE takes a piece record and cuts the CP piece. -/
def cpCutStep (s : State) : Option State :=
  if s.rqt.flushing ≠ [] then none
  else
    match s.mve, lowestFree s with
    | some m, some id =>
      match m.chunk with
      | some ⟨n, .claim⟩ =>
        let s := s.setMve (some {
          m with chunk := some ⟨n, .cut⟩, piece := some id, shadows := joinSet id m.shadows })
        some (placePiece id m.srcPort (setPiece id (some (cpPiece m n)) s))
      | _ => none
    | _, _ => none

end Sys2Proof.Machine
end

