-- ==== Sys2Proof/Machine/Ports.lean ====
section
/-! DEFINITION. The media port controllers: commands and heads, statuses, probes, faults, the entries into DOWN and
OFFLINE, and the PORT request (R59, R66 to R68, R74 to R95). -/

namespace Sys2Proof.Machine

/-! ### Commands (R75, R87) -/

/-- R75: a port sends the CMD of a piece, with the DATA frames of a write, and starts its piece timer. -/
def sendCommand (p : PortId) (id : PieceId) (q : Piece) (op : MediaOp) (dest : Bool) (s : State) : State :=
  let pba := if dest then (q.shadow.map (·.start)).getD 0 else q.start
  let data := if op = .wr then q.slots.map (slotContent · s) else []
  sendMedia p (.command op pba q.count data)
    (modPort p (fun x => {
      x with outstanding := some (.piece id op dest), received := [],
             pieceTimer := some (Config.pieceTimeMs s.mgu.settings.timeoutCode) }) s)

/-- R59: the command that the head of a READY port sends, and the head's state with it. -/
def headCommand (q : Piece) : Option (MediaOp × Bool × Piece) :=
  match q.state, q.kind with
  | .queued, .vf => some (.vf, false, { q with state := .atMedia })
  | .queued, .fl => some (.fl, false, { q with state := .atMedia })
  | .queued, .rd | .queued, .cp =>
    if q.slots = [] then none else some (.rd, false, { q with state := .atMedia })
  | .filling, _ =>
    if (List.range q.count).all (· ∈ q.filled) then some (.wr, false, { q with state := .atMedia }) else none
  | .shadow, _ =>
    match q.shadow with
    | some sh =>
      if sh.state = .queued then some (.wr, true, { q with shadow := some { sh with state := .atMedia } })
      else none
    | none => none
  | _, _ => none

/-- R59: the head of one port is taken: on a READY port with no command outstanding and no offline pending (R93). -/
def serveHead (s : State) (p : PortId) : State :=
  let x := portOf p s
  if x.state = .ready ∧ x.outstanding = none ∧ x.offlinePending = .no then
    match headOf p s with
    | none => s
    | some (id, q) =>
      match headCommand q with
      | none => s
      | some (op, dest, q') => sendCommand p id q' op dest (setPiece id (some q') s)
  else s

/-- R59: the heads of all ports are taken. -/
def serveHeads (s : State) : State := allPorts.foldl serveHead s

/-! ### Probes (R83) -/

/-- R74, R83: a probe starts: MRSTn is pulsed, the INQ is sent with PBA 0 and count 1, the probe timer starts. -/
def startProbe (p : PortId) (st : PortState) (s : State) : State :=
  sendMedia p (.inquiry 0 1) (sendMedia p .pulse (modPort p (fun x => {
    x with state := st, outstanding := some .inquiry, received := [], pieceTimer := none, probeTimer := true,
           mrst := false }) s))

/-! ### Entries into DOWN and OFFLINE (R80, R81) -/

/-- R80, R81: every piece of a port's queue fails, head first; one that an earlier failure of the event dropped does
not end twice. MODEL'S CHOICE (log 7): the completions of the event are handed over in this order, that of an aborted
MOVE at the first piece of the move that fails. -/
def failQueue (p : PortId) (c : Cause) (s : State) : State :=
  (queueOf p s).foldl (fun s id => if id ∈ queueOf p s then pieceFails id 0 c s else s) s

/-- R78, R80: a port's state with its command abandoned and both timers stopped. -/
def quietPort (st : PortState) (x : Port) : Port :=
  { x with state := st, outstanding := none, received := [], pieceTimer := none, probeTimer := false }

/-- R82: MPC reports an exit from READY, after the queue has failed: a MOVE that no failing piece has aborted is answered
after the requests of the queue (MODEL'S CHOICE, log 7). -/
def reportExit (old : PortState) (p : PortId) (c : Cause) (s : State) : State :=
  if old = .ready then portExitAborts p c s else s

/-- R80, R82: a port enters DOWN. The order of the completions of this event is log 7's; the pass-over count is set to 0
also when the head holds no claim (MODEL'S CHOICE, log 26). -/
def enterDown (p : PortId) (s : State) : State :=
  let old := (portOf p s).state
  let s := setFlag .port s
  let s := modPort p (fun x => { quietPort .down x with mrst := false }) s
  reportExit old p .portDown (failQueue p .portDown (withdrawClaim p s))

/-- R93, R166: the end of a pending PORT OFFLINE completes its request and frees MGU, when a tag holds it. -/
def endPending (p : PortId) (pend : OfflinePending) (s : State) : State :=
  match pend with
  | .yes (some t) => complete t .good .none 0 p.val (s.setMgu { s.mgu with exec := .idle, executing := none })
  | .yes none | .no => s

/-- R81, R82, R93: a port enters OFFLINE; its queue fails with the cause given (PORT_OFFLINE, or PORT_DOWN when the
unit is gone). The pass-over count is set to 0 also when the head holds no claim (MODEL'S CHOICE, log 26). -/
def enterOffline (p : PortId) (c : Cause) (s : State) : State :=
  let x := portOf p s
  let s := setFlag .port s
  let s := modPort p (fun x => { quietPort .offline x with mrst := true, offlinePending := .no }) s
  endPending p x.offlinePending (reportExit x.state p .portOffline (failQueue p c (withdrawClaim p s)))

/-! ### Faults (R88, R89, R91) -/

/-- R91: the fault count rises by one. -/
def countFault (p : PortId) (s : State) : State :=
  setFlag .port (modPort p (fun x => { x with faults := x.faults + 1 }) s)

/-- R88, R89: the piece at media fails TIMEOUT and the port recovers, or goes OFFLINE at 4 faults or with offline
pending. The piece's end is taken first, with the switch that it makes due, then the exit (R81, R93; log 25). The
pass-over count is set to 0 also when the head holds no claim (MODEL'S CHOICE, log 26). -/
def portFault (p : PortId) (id : PieceId) (s : State) : State :=
  let s := countFault p s
  let x := portOf p s
  if Config.faultLimit ≤ x.faults ∨ x.offlinePending ≠ .no then
    let s := modPort p (quietPort .ready) s
    enterOffline p .portOffline (takeSwitch (pieceFails id 0 .timeout s))
  else
    let s := startProbe p .recovering (withdrawClaim p s)
    reportExit .ready p .timeout (takeSwitch (pieceFails id 0 .timeout s))

/-- R84, R85: a probe has failed: a fault, then OFFLINE at 4 faults or a new probe in the same state. -/
def probeFails (p : PortId) (s : State) : State :=
  let s := countFault p s
  let x := portOf p s
  if Config.faultLimit ≤ x.faults then enterOffline p .portOffline s else startProbe p x.state s

/-! ### Statuses (R66 to R68, R76, R90) -/

/-- R76: the piece whose command is outstanding on a READY port, with the op and the phase. -/
def pieceAtMedia (p : PortId) (s : State) : Option (PieceId × MediaOp × Bool) :=
  match (portOf p s).state, (portOf p s).outstanding with
  | .ready, some (.piece id op dest) => some (id, op, dest)
  | _, _ => none

/-- R90: the status of a command is taken: the piece timer stops and no command is outstanding. -/
def takeStatus (p : PortId) (s : State) : State :=
  modPort p (fun x => { x with outstanding := none, received := [], pieceTimer := none }) s

/-- R67: the next block of a delivering piece is handed to ULC. -/
def handBlock (id : PieceId) (s : State) : State :=
  match pieceOf id s with
  | none => s
  | some q =>
    match q.owner, q.slots with
    | .tag t, k :: _ => handFrame (.readData id t (q.offset + (q.count - q.slots.length)) (slotContent k s)) s
    | _, _ => s

/-- R35, R67: whether the owner of an RD piece has a failure point at or below the piece. -/
def deliveryBarred (q : Piece) (s : State) : Bool :=
  match q.owner with
  | .tag t => ((entryOf t s).bind (·.failure)).any fun f => f.1 ≤ q.offset
  | .move | .discard => false

/-- R66, R67, R90: a good read status of an RD piece. -/
def readEnds (id : PieceId) (q : Piece) (s : State) : State :=
  if q.owner = .discard then pieceEnds id .done (some q.port) s
  else if deliveryBarred q s then pieceEnds id .dropped none s
  else handBlock id (modPiece id (fun q => { q with state := .delivering }) (leaveQueues id s))

/-- R66, R111: a good read status of a CP piece: it goes to the destination queue with its slots, or ends DONE when an
abort detached it. -/
def copyReadEnds (id : PieceId) (q : Piece) (s : State) : State :=
  if q.shadow.isSome then joinDestination id (leaveQueues id s) else pieceEnds id .done (some q.port) s

/-- R68, R90, R93: the verify that follows a good write; with offline pending no command is sent and the piece stays
at the head. -/
def verifyPhase (p : PortId) (id : PieceId) (dest : Bool) (s : State) : State :=
  if (portOf p s).offlinePending = .no then
    let s := modPiece id (fun q =>
      if dest then { q with shadow := q.shadow.map fun sh => { sh with state := .verifying } }
      else { q with state := .verifying }) s
    match pieceOf id s with
    | none => s
    | some q => sendCommand p id q .vf dest s
  else s

/-- R66, R68, R70: a good status for the piece at media. -/
def goodStatus (p : PortId) (id : PieceId) (op : MediaOp) (dest : Bool) (s : State) : State :=
  match pieceOf id s with
  | none => s
  | some q =>
    match op with
    | .rd => if q.kind = .cp then copyReadEnds id q s else readEnds id q s
    | .fl => pieceEnds id .done (some p) s
    | .wr =>
      if q.verify then verifyPhase p id dest s else if dest then destEnds id s else sourceEnds id s
    | .vf =>
      if dest then destEnds id s
      else if q.kind = .vf then pieceEnds id .done (some p) s
      else sourceEnds id s

/-- R93: the pending command has ended, and its status has been taken for the piece: with offline pending the switch
that the status has made due is taken (R97, R103, R106), and then the port enters OFFLINE. -/
def settlePending (p : PortId) (s : State) : State :=
  if (portOf p s).offlinePending = .no then s else enterOffline p .portOffline (takeSwitch s)

/-- R82, R93: a status that ends a pending command takes the port OFFLINE at its event, which sets PORT; the flag is
set before the completions of the event, whose attention bit shows it (R41). -/
def notePending (p : PortId) (s : State) : State :=
  if (portOf p s).offlinePending = .no then s else setFlag .port s

/-- R66, R76: an OK status; it is discarded without a piece at media, and for a read whose data is not complete. -/
def statusOk (p : PortId) (s : State) : State :=
  match pieceAtMedia p s with
  | none => s
  | some (id, op, dest) =>
    let count := ((pieceOf id s).map (·.count)).getD 0
    if op = .rd ∧ !((List.range count).all (· ∈ (portOf p s).received)) then s
    else settlePending p (goodStatus p id op dest (notePending p (takeStatus p s)))

/-- R66: the cause of an error status: a verify of a WR or CP piece and an FL piece give MEDIA; otherwise it goes by
the error kind. -/
def errorCause (q : Piece) (op : MediaOp) (kind : MediaError) : Cause :=
  if op = .fl ∨ (op = .vf ∧ q.kind ≠ .vf) then .media
  else match kind with
    | .uncorrectable => .media
    | .range => .mediaRange

/-- R66, R70, R76, R90: an ERROR status at index `k`; it is no fault. -/
def statusError (p : PortId) (k : Nat) (kind : MediaError) (s : State) : State :=
  match pieceAtMedia p s with
  | none => s
  | some (id, op, _) =>
    match pieceOf id s with
    | none => s
    | some q =>
      if op ≠ .fl ∧ q.count ≤ k then s
      else
        let k := if op = .fl then 0 else k
        settlePending p (pieceFails id k (errorCause q op kind) (notePending p (takeStatus p s)))

/-- R89: NOT_READY for the piece at media is a fault. -/
def statusNotReady (p : PortId) (s : State) : State :=
  match pieceAtMedia p s with
  | none => s
  | some (id, _, _) => portFault p id s

/-- R84: an INQUIRY status answers the probe that is outstanding. -/
def statusInquiry (p : PortId) (capacity : Word) (ready : Bool) (s : State) : State :=
  if (portOf p s).outstanding = some .inquiry then
    if ready then
      setFlag .port (modPort p (fun x => {
        x with state := .ready, capacity := capacity, outstanding := none, probeTimer := false }) s)
    else probeFails p s
  else s

/-- R76: a DATA frame of an outstanding source read is written into its slot; any other is discarded. -/
def mediaBlock (p : PortId) (i : Nat) (b : Block) (s : State) : State :=
  match pieceAtMedia p s with
  | some (id, .rd, _) =>
    match (pieceOf id s).bind (·.slots[i]?) with
    | none => s
    | some k =>
      if i ∈ (portOf p s).received then s
      else writeSlot k b (modPort p (fun x => { x with received := joinSet i x.received }) s)
  | _ => s

/-! ### The lines and the PORT request (R79, R92 to R94) -/

/-- R79: PRESENTn goes low at a DOWN port: a probe starts. -/
def unitAppears (p : PortId) (s : State) : State :=
  if (portOf p s).state = .down then setFlag .port (startProbe p .probing s) else s

/-- R79, R80, R93: PRESENTn goes high. -/
def unitGone (p : PortId) (s : State) : State :=
  match (portOf p s).state with
  | .down | .offline => s
  | .probing | .recovering | .ready =>
    if (portOf p s).offlinePending = .no then enterDown p s else enterOffline p .portDown s

/-- R93: the MPC takes PORT OFFLINE; `true` when it ends the request at this event. -/
def portOfflineTaken (t : Tag) (p : PortId) (s : State) : State × Bool :=
  match (portOf p s).state with
  | .offline => (s, true)
  | .down | .probing | .recovering => (enterOffline p .portOffline s, true)
  | .ready =>
    if (pieceAtMedia p s).isSome then
      (modPort p (fun x => { x with offlinePending := .yes (some t) }) s, false)
    else (enterOffline p .portOffline s, true)

/-- R94: the MPC takes PORT ONLINE. -/
def portOnlineTaken (p : PortId) (s : State) : State :=
  if (portOf p s).state = .offline then
    let s := setFlag .port (modPort p (fun x => { x with faults := 0, mrst := false }) s)
    if s.pins.presentLow[p] then startProbe p .probing s
    else modPort p (fun x => { x with state := .down }) s
  else s

end Sys2Proof.Machine
end

