-- ==== Sys2Proof/Machine/Supervision.lean ====
section
/-! DEFINITION. The supervision monitor: periods, failures, LAPSE, the fence causes and the part state (R144 to
R157). -/

namespace Sys2Proof.Machine

/-- R145: the phase in which a fresh period starts. -/
def freshPhase (m : Mode) : Timer :=
  match m with
  | .off => .stopped
  | .timeout => .full
  | .window => .first

/-- R145: a fresh period starts, when the part is RUN and the mode is not OFF; it reads the period code. -/
def freshPeriod (s : State) : State :=
  if s.svm.partState = .run ∧ s.mgu.settings.mode ≠ .off then
    s.setSvm { s.svm with
      timer := freshPhase s.mgu.settings.mode, periodMs := Config.periodMs s.mgu.settings.periodCode }
  else s

/-- R144: some fence cause is present. -/
def anyCause (c : FenceCauses) : Bool := c.supervision || c.pin

/-- The two fence causes (R144). -/
inductive FenceCause where
  | supervision
  | pin
  deriving DecidableEq, Repr

/-- Whether a cause is present. -/
def hasCause (c : FenceCause) (s : State) : Bool :=
  match c with
  | .supervision => s.svm.causes.supervision
  | .pin => s.svm.causes.pin

/-- The cause set with one cause present or absent. -/
def putCause (c : FenceCause) (b : Bool) (cs : FenceCauses) : FenceCauses :=
  match c with
  | .supervision => { cs with supervision := b }
  | .pin => { cs with pin := b }

/-- The part state changes; the timer stops when the part leaves RUN (R145). MODEL'S CHOICE (log 6): a stopped timer keeps
the length of the period that ran last; R144 gives a length to a running period only. -/
def setPartState (p : PartState) (s : State) : State :=
  s.setSvm { s.svm with partState := p, timer := if p = .run then s.svm.timer else .stopped }

/-- R153: the part enters FENCED from RUN: the timer stops, FENCE is set and an active move aborts. -/
def fencePart (s : State) : State :=
  let s := setFlag .fence (setPartState .fenced s)
  match s.mve with
  | none => s
  | some m => abortMove .failed .fenced m.cursor true s

/-- R151, R152: a fence cause is added; adding one that is present changes nothing. -/
def addCause (c : FenceCause) (s : State) : State :=
  if hasCause c s then s
  else
    let s := setFlag .fence (s.setSvm { s.svm with causes := putCause c true s.svm.causes })
    if s.svm.partState = .run then fencePart s else s

/-- R151, R152, R154: a fence cause is removed; with the last one a FENCED part enters RUN. -/
def removeCause (c : FenceCause) (s : State) : State :=
  if hasCause c s then
    let s := setFlag .fence (s.setSvm { s.svm with causes := putCause c false s.svm.causes })
    if s.svm.partState = .fenced ∧ !anyCause s.svm.causes then freshPeriod (setPartState .run s) else s
  else s

/-- R148: a supervision failure. -/
def supervisionFailure (s : State) : State :=
  if s.svm.lapse then addCause .supervision s else freshPeriod (setLapse true s)

/-- R152: the part leaves LOADING or BARE with a valid map: to RUN, with a fresh period, or to FENCED, which sets
FENCE, when a cause is present. -/
def enterService (s : State) : State :=
  if anyCause s.svm.causes then setFlag .fence (setPartState .fenced s)
  else freshPeriod (setPartState .run s)

/-- R134, R152: UNLOCK takes the part to BARE with its causes kept; leaving FENCED sets FENCE. -/
def enterBare (s : State) : State :=
  let fencedBefore := s.svm.partState = .fenced
  let s := setPartState .bare s
  if fencedBefore then setFlag .fence s else s

/-- R147: how a KEEPALIVE is judged; the second part is the detail of its completion. -/
def judgeKeepalive (s : State) : State × Nat :=
  if s.svm.partState = .run then
    match s.mgu.settings.mode, s.svm.timer with
    | .timeout, .full => (freshPeriod s, 0)
    | .window, .second => (freshPeriod s, 0)
    | .window, .first => (supervisionFailure s, 1)
    | _, _ => (s, 2)
  else (s, 2)

end Sys2Proof.Machine
end

