-- ==== Sys2Proof/Machine/Store.lean ====
section
/-! DEFINITION. The map store: save, lock and unlock operations, writes that are cut off, the start-up read, and the
start-up itself (R127 to R143, R20 to R22). -/

namespace Sys2Proof.Machine

/-! ### Starting a store operation (R130, R134) -/

/-- R130: the checks of MAP SAVE and LOCK, the first that matches. -/
def saveRefusal (s : State) : Option Cause :=
  if s.mst.lock then some .locked
  else if s.svm.partState = .fenced then some .fenced
  else if s.svm.partState = .bare then some .noMap
  else if storeBusy s then some .saveActive
  else none

/-- R130: the save image of this event. -/
def saveImage (locking : Bool) (s : State) : SaveImage :=
  ⟨mapVec normalExtent s.xmp.active, s.xmp.generation, usedCount s.xmp.active, s.mgu.settings, locking⟩

/-- R130: MST takes a MAP SAVE or a LOCK. -/
def startSave (locking : Bool) (t : Tag) (s : State) : State :=
  match saveRefusal s with
  | some c => complete t .refused c 0 0 s
  | none => s.setMst { s.mst with op := .saving .opening (saveImage locking s) (some t), storeState := .invalid }

/-- R134: the checks of UNLOCK, the first that matches. -/
def unlockRefusal (s : State) : Option Cause :=
  if s.svm.partState = .fenced then some .fenced
  else if storeBusy s then some .saveActive
  else if s.mve.isSome then some .moveActive
  else none

/-- R134: MST takes an UNLOCK. -/
def startUnlock (t : Tag) (s : State) : State :=
  match unlockRefusal s with
  | some c => complete t .refused c 0 0 s
  | none => s.setMst { s.mst with op := .wiping (some t), storeState := .invalid }

/-! ### Writes (R131) -/

/-- R131: a good write of a save places its content. -/
def placeWrite (step : SaveStep) (img : SaveImage) (m : Mst) : Mst :=
  match step with
  | .opening => { m with header := invalidHeader }
  | .row n => { m with rows := m.rows.set n (imageRow img n) }
  | .closing => { m with header := imageHeader img }

/-- R129: the step after a good write; `none` after CLOSE. -/
def nextStep (step : SaveStep) : Option SaveStep :=
  match step with
  | .opening => some (.row 0)
  | .row n => if n = 7 then some .closing else some (.row (n + 1))
  | .closing => none

/-- R132, R137: what a header write that ended bad or was cut off leaves: the old content, the new content, or
content whose check word is bad. A drawn content outside that bound has its check word spoilt (log 1). -/
def unknownHeader (old new : Vector Byte 10) (n : Nat) : Vector Byte 10 :=
  let x := Config.freeHeader n
  if x = old ∨ x = new ∨ headerGood x = false then x else x.set 9 (x[9] ^^^ 1)

/-- R137: what a row write that was cut off leaves. -/
def unknownRow (old new : Vector Byte 130) (n : Nat) : Vector Byte 130 :=
  let x := Config.freeRow n
  if x = old ∨ x = new ∨ rowGood x = false then x else x.set 129 (x[129] ^^^ 1)

/-- R132: what a bad or cut-off write of a save leaves; a row write that ended bad holds any content. -/
def spoilWrite (cut : Bool) (step : SaveStep) (img : SaveImage) (n : Nat) (m : Mst) : Mst :=
  match step with
  | .opening => { m with header := unknownHeader m.header invalidHeader n }
  | .row k =>
    { m with rows := m.rows.set k (if cut then unknownRow m.rows[k] (imageRow img k) n else Config.freeRow n) }
  | .closing => { m with header := unknownHeader m.header (imageHeader img) n }

/-- R132, R137: the store after the write in progress ended bad, or was cut off (`cut`). -/
def spoilStore (cut : Bool) (s : State) : State :=
  match s.mst.op with
  | .idle => s
  | .saving step img _ => (s.setMst (spoilWrite cut step img s.draws s.mst)).setDraws (s.draws + 1)
  | .wiping _ =>
    (s.setMst { s.mst with header := unknownHeader s.mst.header invalidHeader s.draws }).setDraws (s.draws + 1)

/-! ### The end of a store operation (R129, R132 to R136) -/

/-- R132: the detail that names a failing write. -/
def writeDetail (step : SaveStep) : Nat :=
  match step with
  | .opening => 8
  | .row n => n.val
  | .closing => 9

/-- R136, R42: MST reports the end of an operation; without a tag nothing is sent. -/
def reportStore (t : Option Tag) (o : ReqOutcome) (c : Cause) (detail : Nat) (s : State) : State :=
  match t with
  | some t => complete t o c 0 detail s
  | none => s

/-- R129: the operation state returns to IDLE, the last operation is recorded and STORE is set. -/
def endStoreOp (k : StoreKind) (o : ReqOutcome) (c : Cause) (s : State) : State :=
  setFlag .store (s.setMst { s.mst with op := .idle, lastOp := some ⟨k, o, c⟩ })

/-- The kind of a save by its image. -/
def saveKind (img : SaveImage) : StoreKind := if img.lock then .lock else .save

/-- R133: the good end of the CLOSE write. -/
def saveSucceeds (img : SaveImage) (t : Option Tag) (s : State) : State :=
  let s := endStoreOp (saveKind img) .good .none s
  let s := s.setMst { s.mst with storeState := .map, lock := s.mst.lock || img.lock }
  reportStore t .good .none img.usedCount s

/-- R21: UNLOCK takes effect at XMP, and the part goes to BARE. -/
def unlockTakesEffect (s : State) : State :=
  enterBare (s.setXmp ⟨ExtMap.empty, s.xmp.generation + 1, ExtMap.empty, false⟩)

/-- R129: the write in progress ends with a good read-back. MODEL'S CHOICE (log 19): an UNLOCK that ends FAILED
MOVE_ACTIVE is answered before the deferred switch of the same event. -/
def goodWriteEnd (s : State) : State :=
  match s.mst.op with
  | .idle => s
  | .saving step img t =>
    let s := s.setMst (placeWrite step img s.mst)
    match nextStep step with
    | some next => s.setMst { s.mst with op := .saving next img t }
    | none => saveSucceeds img t s
  | .wiping t =>
    let s := s.setMst { s.mst with header := invalidHeader }
    if s.mve.isSome then
      reportStore t .failed .moveActive 0 (endStoreOp .unlock .failed .moveActive s)
    else
      let s := endStoreOp .unlock .good .none s
      let s := unlockTakesEffect (s.setMst { s.mst with lock := false })
      reportStore t .good .none 0 s

/-- R129: the write in progress ends with a bad read-back. MODEL'S CHOICE (log 19): the request is answered before the
deferred switch of the same event (R107), with the generation before it. -/
def badWriteEnd (s : State) : State :=
  match s.mst.op with
  | .idle => s
  | .saving step img t =>
    reportStore t .failed .storeFail (writeDetail step) (endStoreOp (saveKind img) .failed .storeFail (spoilStore false s))
  | .wiping t =>
    reportStore t .failed .storeFail 8 (endStoreOp .unlock .failed .storeFail (spoilStore false s))

/-- R137, R140: power loss or RESETn cuts off the write in progress and abandons the start-up read. -/
def cutOffStore (s : State) : State :=
  let s := spoilStore true s
  s.setMst { s.mst with op := .idle, reading := false }

/-! ### The start-up read (R20, R141) -/

/-- R141: what the store holds. -/
inductive StoreContent where
  | stored (records : ExtMap) (generation : Half) (settings : Settings) (lock : Bool)
  | identity
  | other
  deriving DecidableEq, Repr

/-- R141: the settings and the lock flag that a header names. -/
def headerSettings (h : List Byte) : Option (Settings × Bool) :=
  match codeOf (byteAt h 2).toNat, modeOf (byteAt h 3).toNat, codeOf (byteAt h 4).toNat with
  | some t, some m, some c => if (byteAt h 1).toNat ≤ 1 then some (⟨t, m, c⟩, byteAt h 1 = 1) else none
  | _, _, _ => none

/-- R141: the map that the rows hold, every move state NORMAL. -/
def storedMap (rows : Vector (Vector Byte 130) 8) : ExtMap :=
  ⟨⟨(List.range 64).map fun i => normalExtent (storedExtent rows i)⟩, by simp⟩

/-- R20, R141, R183: MST judges the store. -/
def judgeStore (m : Mst) : StoreContent :=
  let h := m.header.toList
  if headerGood m.header = false then .other
  else if byteAt h 0 = 1 then .identity
  else if byteAt h 0 ≠ 2 then .other
  else if !m.rows.toList.all rowGood then .other
  else
    let records := storedMap m.rows
    match firstBadIndex records, headerSettings h with
    | none, some (set, lock) =>
      if usedCount records = (byteAt h 5).toNat then .stored records (halfAt h 6) set lock else .other
    | _, _ => .other

/-- R20, R141: the start-up load; the part leaves LOADING. -/
def loadStore (s : State) : State :=
  let content := judgeStore s.mst
  let s := s.setMst { s.mst with reading := false }
  match content with
  | .stored records gen set lock =>
    let s := s.setXmp { s.xmp with active := records, generation := gen }
    let s := s.setMgu { s.mgu with settings := set }
    enterService (s.setMst { s.mst with lock := lock, storeState := .map })
  | .identity =>
    let s := s.setXmp { s.xmp with active := identityMap, generation := 0 }
    let s := s.setMgu { s.mgu with settings := Settings.default }
    enterService (s.setMst { s.mst with lock := false, storeState := .identity })
  | .other =>
    let s := s.setXmp { s.xmp with active := ExtMap.empty, generation := 0 }
    let s := s.setMgu { s.mgu with settings := Settings.default }
    setPartState .bare (s.setMst { s.mst with lock := false, storeState := .invalid })

/-- The start-up read ends, while it is running. -/
def readEnd (s : State) : State := if s.mst.reading then loadStore s else s

/-! ### Start-up (R139) -/

/-- R95: a port at a start-up event reads PRESENTn and probes if a unit is present. -/
def wakePort (s : State) (p : PortId) : State :=
  if s.pins.presentLow[p] then startProbe p .probing s else s

/-- R139: every block at its start-up values; the store image, the lines, and the record of what has left the part
are kept, and slot contents are as they were (log 6). -/
def startValues (cause : StartCause) (s : State) : State where
  pending := s.pending
  pins := { s.pins with started := true }
  ulc := ⟨[], [], Vector.replicate 16 []⟩
  rqt := ⟨Vector.replicate 16 none, [], [], [], [], []⟩
  xmp := ⟨ExtMap.empty, 0, ExtMap.empty, false⟩
  psc := ⟨Vector.replicate 48 none, Vector.replicate 4 [], []⟩
  spa := ⟨s.spa.slots, List.finRange 32, 0, Vector.replicate 4 0, []⟩
  ports := Vector.replicate 4 Port.reset
  mve := none
  mgu := ⟨.idle, none, Vector.replicate 2 none, Settings.default, cause, raiseFlag .start noFlags⟩
  mst := ⟨s.mst.header, s.mst.rows, .idle, true, false, .invalid, none⟩
  svm := ⟨.loading, .stopped, 0, false, ⟨false, s.pins.wpnLow⟩⟩
  out := s.out
  draws := s.draws

/-- R95, R139: a start-up. -/
def startUp (cause : StartCause) (s : State) : State := allPorts.foldl wakePort (startValues cause s)

/-- R139: a start-up by the lines: POWER for the first since power was applied, PIN otherwise. -/
def startUpByLines (s : State) : State := startUp (if s.pins.started then .pin else .power) s

end Sys2Proof.Machine
end

