-- ==== Sys2Proof/Machine/Management.lean ====
section
/-! DEFINITION. The management unit: the requests it takes from the management queue and carries out or hands on
(R92, R116 to R126, R142, R150, R155, R158 to R166). -/

namespace Sys2Proof.Machine

/-! ### The execution state and the buffer -/

/-- MGU is idle again, holding no request and an empty buffer (R118, R119, R161, R163). MODEL'S CHOICE (log 27): the
buffer is emptied at the end of a MAP READ too, of which R126 does not say so. -/
def mguIdle (s : State) : State :=
  s.setMgu { s.mgu with exec := .idle, executing := none, buffer := Vector.replicate 2 none }

/-- MGU holds a request in an execution state. -/
def mguHolds (x : MguExec) (t : Tag) (k : Kind) (s : State) : State :=
  s.setMgu { s.mgu with exec := x, executing := some (t, k) }

/-- R117, R161: MGU empties its buffer. -/
def emptyBuffer (s : State) : State := s.setMgu { s.mgu with buffer := Vector.replicate 2 none }

/-- A block of the management data buffer is filled. -/
def fillBuffer (i : Fin 2) (b : Block) (s : State) : State :=
  s.setMgu { s.mgu with buffer := s.mgu.buffer.set i (some b) }

/-! ### Requests without data -/

/-- R150: the settings of SETUP would retime a running supervision. -/
def retimes (set : Settings) (s : State) : Bool :=
  s.svm.partState = .run && s.mgu.settings.mode ≠ .off &&
    (set.mode ≠ s.mgu.settings.mode || set.periodCode ≠ s.mgu.settings.periodCode)

/-- R150, R165: SETUP. MODEL'S CHOICE (log 7): where the failure fences the part, the requests that the abort ends are
answered before the SETUP. -/
def mguSetup (t : Tag) (e : Entry) (s : State) : State :=
  match setupSettings e.p0 e.p1 e.p2 with
  | none => complete t .refused .badParam 0 0 s
  | some set =>
    if retimes set s then complete t .refused .supervised 0 0 (supervisionFailure s)
    else
      let old := s.mgu.settings.mode
      let s := s.setMgu { s.mgu with settings := set }
      let s := if old = .off ∧ set.mode ≠ .off then freshPeriod s else s
      complete t .good .none 0 0 s

/-- R155: UNFENCE. -/
def mguUnfence (t : Tag) (s : State) : State :=
  let s := setLapse false (removeCause .supervision s)
  complete t .good .none 0 (if s.svm.causes.pin then 1 else 0) s

/-- R116: MAP OPEN. -/
def mguMapOpen (t : Tag) (s : State) : State :=
  if s.mst.lock then complete t .refused .locked 0 0 s
  else
    let s := s.setXmp { s.xmp with staging := settleMap s.xmp.active, stagingOpen := true }
    complete t .good .none 0 (usedCount s.xmp.staging) s

/-- R120: the checks of MAP COMMIT with cause and detail, the first that matches. -/
def commitRefusal (s : State) : Option (Cause × Nat) :=
  if s.mst.lock then some (.locked, 0)
  else if s.svm.partState = .fenced then some (.fenced, 0)
  else if !s.xmp.stagingOpen then some (.notOpen, 0)
  else if s.mve.isSome then some (.moveActive, 0)
  else if storeBusy s then some (.saveActive, 0)
  else (firstBadIndex s.xmp.staging).map fun i => (.invalidMap, i)

/-- R122: the staging map becomes the active map. -/
def installMap (s : State) : State :=
  let s := s.setXmp ⟨settleMap s.xmp.staging, s.xmp.generation + 1, ExtMap.empty, false⟩
  if s.svm.partState = .bare then enterService s else s

/-- R120, R122: MAP COMMIT. -/
def mguMapCommit (t : Tag) (s : State) : State :=
  match commitRefusal s with
  | some (c, i) => complete t .refused c 0 i s
  | none =>
    let s := installMap s
    complete t .good .none 0 (usedCount s.xmp.active) s

/-- R115: staging is emptied and closed. -/
def closeStaging (s : State) : State := s.setXmp { s.xmp with staging := ExtMap.empty, stagingOpen := false }

/-- R124: MAP DISCARD. -/
def mguMapDiscard (t : Tag) (s : State) : State :=
  complete t .good .none 0 0 (if s.xmp.stagingOpen then closeStaging s else s)

/-- R142: RESTART. Its completion frame is the one whose departure starts the part. -/
def mguRestart (t : Tag) (s : State) : State :=
  if storeBusy s then complete t .refused .saveActive 0 0 s
  else
    let s := s.setMgu { s.mgu with exec := .stopped, executing := none }
    freeEntry t (handFrame (.cmpl (completionOf t .good .none 0 0 s) true) s)

/-! ### PORT (R92, R166) -/

/-- R92, R166: PORT. -/
def mguPort (t : Tag) (e : Entry) (s : State) : State :=
  match portOfWord e.p0 with
  | none => complete t .refused .badParam 0 0 s
  | some p =>
    if e.p1 = 0 then
      match portOfflineTaken t p s with
      | (s, true) => complete t .good .none 0 p.val s
      | (s, false) => mguHolds .portWait t .port s
    else if e.p1 = 1 then complete t .good .none 0 p.val (portOnlineTaken p s)
    else complete t .refused .badParam 0 0 s

/-! ### MAP STAGE (R117 to R119) -/

/-- The number of data blocks that hold a record count. -/
def blocksFor (count : Nat) : Nat := if count ≤ 32 then 1 else 2

/-- R117: the checks of MAP STAGE, the first that matches. -/
def stageRefusal (e : Entry) (s : State) : Option Cause :=
  if s.mst.lock then some .locked
  else if !s.xmp.stagingOpen then some .notOpen
  else if !windowGood e.p0 e.p1 then some .badParam
  else none

/-- R117: MAP STAGE. -/
def mguMapStage (t : Tag) (e : Entry) (s : State) : State :=
  match stageRefusal e s with
  | some c => complete t .refused c 0 0 s
  | none => openGrant ⟨t, 0, blocksFor e.p1.toNat, .buffer⟩ (mguHolds .dataIn t .mapStage (emptyBuffer s))

/-- R118: the staging table with the records of the buffer at `first`, `first + 1` and onward. -/
def applyRecords (first count : Nat) (bytes : List Byte) (m : ExtMap) : ExtMap :=
  ⟨⟨(m.toList.zipIdx).map fun x =>
    if first ≤ x.2 ∧ x.2 < first + count then normalExtent (decodeExtent (recordBytes bytes (x.2 - first)))
    else x.1⟩, by simp⟩

/-- The bytes of the management data buffer, an empty block as none. -/
def bufferBytes (s : State) : List Byte :=
  ((s.mgu.buffer[0]).map (·.toList)).getD [] ++ ((s.mgu.buffer[1]).map (·.toList)).getD []

/-- R118: the last block of a MAP STAGE has arrived: its records are applied and it completes. A staging map that an
UNLOCK has closed meanwhile stays empty, as R115 says of every CLOSED one (log 17). -/
def applyStage (t : Tag) (s : State) : State :=
  match entryOf t s with
  | none => s
  | some e =>
    let staging := if s.xmp.stagingOpen then
        applyRecords e.p0.toNat e.p1.toNat (bufferBytes s) s.xmp.staging
      else s.xmp.staging
    complete t .good .none 0 e.p1.toNat (mguIdle (s.setXmp { s.xmp with staging := staging }))

/-! ### Requests with data upstream -/

/-- R161: IDENTIFY. -/
def mguIdentify (t : Tag) (s : State) : State :=
  let b := identifyRecord s
  handFrame (.mgmtData t 0 b) (mguHolds .dataOut t .identify (fillBuffer 0 b (emptyBuffer s)))

/-- R163: STATUS; the record is composed when its frame departs. -/
def mguStatus (t : Tag) (s : State) : State :=
  handFrame (.statusData t) (mguHolds .dataOut t .status (emptyBuffer s))

/-- R125: the tables MAP READ selects. -/
inductive MapTable where
  | active | staging | store
  deriving DecidableEq, Repr

/-- R179: the selector of MAP READ. -/
def tableOf (p0 : Word) : Option MapTable :=
  match p0.toNat with
  | 0 => some .active | 1 => some .staging | 2 => some .store | _ => none

/-- R125: the checks of MAP READ, the first that matches. -/
def readRefusal (e : Entry) (s : State) : Option Cause :=
  match tableOf e.p0 with
  | none => some .badParam
  | some tab =>
    if !windowGood e.p1 e.p2 then some .badParam
    else if tab = .staging ∧ !s.xmp.stagingOpen then some .notOpen
    else if tab = .store ∧ storeBusy s then some .saveActive
    else none

/-- R125: the record at a map index of a table as MAP READ returns it; a store record is shown as its row holds it,
with move state NORMAL. -/
def tableRecord (tab : MapTable) (s : State) (i : Nat) : Extent :=
  match tab with
  | .active => s.xmp.active.toList.getD i Extent.empty
  | .staging => s.xmp.staging.toList.getD i Extent.empty
  | .store => { storedExtent s.mst.rows i with moving := false }

/-- R125: block `b` of the window. -/
def windowBlock (tab : MapTable) (first count b : Nat) (s : State) : Block :=
  recordsBlock ((List.range (min 32 (count - 32 * b))).map fun j => tableRecord tab s (first + 32 * b + j))

/-- R125: an accepted MAP READ fills the buffer and hands its frames to ULC. MODEL'S CHOICE (log 27): the buffer is
emptied first, as R161 says of IDENTIFY. -/
def sendWindow (t : Tag) (tab : MapTable) (first count : Nat) (s : State) : State :=
  let b0 := windowBlock tab first count 0 s
  let b1 := windowBlock tab first count 1 s
  let s := mguHolds .dataOut t .mapRead (fillBuffer 0 b0 (emptyBuffer s))
  let s := handFrame (.mgmtData t 0 b0) s
  if blocksFor count = 2 then handFrame (.mgmtData t 1 b1) (fillBuffer 1 b1 s) else s

/-- R125: MAP READ. -/
def mguMapRead (t : Tag) (e : Entry) (s : State) : State :=
  match readRefusal e s, tableOf e.p0 with
  | some c, _ => complete t .refused c 0 0 s
  | none, some tab => sendWindow t tab e.p1.toNat e.p2.toNat s
  | none, none => s

/-! ### Taking the head (R159, R160) -/

/-- R160: MGU acts on the request it has taken, by its kind. KEEPALIVE, PEEK and the data kinds never join the
management queue. -/
def mguActs (t : Tag) (e : Entry) (s : State) : State :=
  match e.kind with
  | .identify => mguIdentify t s
  | .status => mguStatus t s
  | .setup => mguSetup t e s
  | .unfence => mguUnfence t s
  | .mapOpen => mguMapOpen t s
  | .mapStage => mguMapStage t e s
  | .mapCommit => mguMapCommit t s
  | .mapDiscard => mguMapDiscard t s
  | .mapRead => mguMapRead t e s
  | .mapSave => startSave false t s
  | .lock => startSave true t s
  | .unlock => startUnlock t s
  | .move => startMove t e.p0 e.p1 e.p2 s
  | .port => mguPort t e s
  | .restart => mguRestart t s
  | .read | .write | .verify | .flush | .keepalive | .peek => s

/-- R159: MGU takes the head of the management queue: it is IDLE, the queue is not empty and the part is not
LOADING. -/
def mguStep (s : State) : Option State :=
  if s.mgu.exec = .idle ∧ s.svm.partState ≠ .loading then
    match s.rqt.mgmt with
    | [] => none
    | t :: rest =>
      match entryOf t s with
      | none => none
      | some e =>
        let e := { e with state := .active }
        some (mguActs t e (setEntry t (some e) (s.setRqt { s.rqt with mgmt := rest })))
  else none

end Sys2Proof.Machine
end

