-- ==== Sys2Proof/Machine/Requests.lean ====
section
/-! DEFINITION. What arrives on the upstream link: requests (R25 to R28, R46), DATA frames (R63, R65, R118), CANCEL
(R43 to R45, R48), the expiry of a grant (R64, R119), raw frames (R174, R175), and the departures of frames (R67,
R126, R142, R163, R176). -/

namespace Sys2Proof.Machine

/-! ### Arrival of a request (R25 to R28) -/

/-- R65, R177: the withdrawn set of a tag is emptied. -/
def clearWithdrawn (t : Tag) (s : State) : State :=
  s.setUlc { s.ulc with withdrawn := s.ulc.withdrawn.set t [] }

/-- R23: the entry of a request that has passed the arrival checks; fields that its kind does not use are 0. -/
def newEntry (k : Kind) (st : EntryState) (r : Request) (waitSet : List Tag) : Entry where
  state := st
  unit := r.unit
  kind := k
  lba := if namesBlocks k then r.lba else 0
  count := if namesBlocks k then blockCount r.count else 0
  p0 := if isDataKind k then 0 else r.p0
  p1 := if isDataKind k then 0 else r.p1
  p2 := if isDataKind k then 0 else r.p2
  segments := []
  cutSeg := 0
  cutOff := 0
  notEnded := 0
  done := []
  failure := none
  cancelTaken := false
  waitSet := waitSet
  flPorts := []

/-- R46: the tags of the WRITE requests of a unit that have not completed. -/
def earlierWrites (unit : Byte) (s : State) : List Tag :=
  allTags.filter fun t => (entryOf t s).any fun e => e.kind = .write && e.unit = unit

/-- R27: a READ, WRITE or VERIFY joins the tail of the intake queue. -/
def joinIntake (k : Kind) (r : Request) (s : State) : State :=
  let s := setEntry r.tag (some (newEntry k .queued r [])) s
  s.setRqt { s.rqt with intake := s.rqt.intake ++ [r.tag] }

/-- R46: a FLUSH records its wait set and enters BARRIER. -/
def joinBarrier (r : Request) (s : State) : State :=
  let s := setEntry r.tag (some (newEntry .flush .barrier r (earlierWrites r.unit s))) s
  s.setRqt { s.rqt with barrier := s.rqt.barrier ++ [r.tag] }

/-- R30, R159: a management request joins the management queue, and MGU takes the head if it can. -/
def joinManagement (k : Kind) (r : Request) (s : State) : State :=
  let s := setEntry r.tag (some (newEntry k .queued r [])) s
  let s := s.setRqt { s.rqt with mgmt := s.rqt.mgmt ++ [r.tag] }
  (mguStep s).getD s

/-- R28, R147: KEEPALIVE is judged and answered. MODEL'S CHOICE (log 7): where it fences the part, the requests that the
abort ends are answered before it. -/
def answerKeepalive (t : Tag) (s : State) : State :=
  sendCmpl t .good .none 0 (judgeKeepalive s).2 (judgeKeepalive s).1

/-- R28, R164: PEEK is answered by a status record and its completion. -/
def answerPeek (t : Tag) (s : State) : State :=
  sendCmpl t .good .none 0 0 (handFrame (.peekData t (statusRecord s)) s)

/-- R27, R28: a request that has passed the arrival checks is placed by its kind. -/
def placeRequest (k : Kind) (r : Request) (s : State) : State :=
  match k with
  | .read | .write | .verify => joinIntake k r s
  | .flush => joinBarrier r s
  | .keepalive => answerKeepalive r.tag s
  | .peek => answerPeek r.tag s
  | .identify | .status | .setup | .unfence | .mapOpen | .mapStage | .mapCommit | .mapDiscard
  | .mapRead | .mapSave | .move | .port | .lock | .unlock | .restart => joinManagement k r s

/-- R25, R26: a REQ arrives: a busy tag discards it, an arrival check refuses it, or it is placed. -/
def requestArrives (r : Request) (s : State) : State :=
  if (entryOf r.tag s).isSome then setFlag .link s
  else
    let s := clearWithdrawn r.tag s
    match arrivalCheck r, kindOf r.code with
    | some c, _ => sendCmpl r.tag .refused c (arrivalRemaining r) 0 s
    | none, some k => placeRequest k r s
    | none, none => s

/-! ### CANCEL (R43 to R45, R48) -/

/-- R44: cancel-taken is set and the entry drains. -/
def cancelled (e : Entry) : Entry := { e with cancelTaken := true, state := .draining }

/-- R44: a CANCEL on an ACTIVE READ, WRITE or VERIFY. -/
def cancelData (t : Tag) (s : State) : State :=
  let s := trimActive t (modEntry t cancelled s)
  tryComplete t (dropPieces t (fun p => p.state = .queued || p.state = .filling) s)

/-- R48: a CANCEL on an ACTIVE FLUSH. -/
def cancelFlush (t : Tag) (s : State) : State := tryComplete t (stopFlush t (modEntry t cancelled s))

/-- R119: a MAP STAGE that waits for its data is cancelled. -/
def cancelStage (t : Tag) (s : State) : State :=
  complete t .cancelled .none 0 0 (mguIdle (withdrawGrants (fun g => g.tag = t) s))

/-- R45: a CANCEL on an ACTIVE management request. -/
def cancelManagement (t : Tag) (k : Kind) (s : State) : State :=
  match k with
  | .move => if s.mve.any (·.tag = t) then abortMove .cancelled .none 0 true s else s
  | .mapStage => if s.mgu.exec = .dataIn then cancelStage t s else s
  | _ => s

/-- R43: a CANCEL frame. -/
def cancelArrives (t : Tag) (s : State) : State :=
  match entryOf t s with
  | none => s
  | some e =>
    match e.state with
    | .queued | .barrier =>
      complete t .cancelled .none (if namesBlocks e.kind then e.count else 0) 0 s
    | .draining => s
    | .active =>
      if namesBlocks e.kind then cancelData t s
      else if e.kind = .flush then cancelFlush t s
      else cancelManagement t e.kind s

/-! ### DATA frames from the host (R63, R65, R118) -/

/-- R63: a grant covers an offset of its tag. -/
def covers (t : Tag) (off : Nat) (g : Grant) : Bool := g.tag = t && g.first ≤ off && off < g.first + g.count

/-- R63, R118: what ends a grant whose filled set has become complete. -/
def grantFilled (g : Grant) (s : State) : State :=
  match g.target with
  | .piece _ => removeGrant g s
  | .buffer => applyStage g.tag (removeGrant g s)

/-- R63, R118: a payload is written at position `i` of a grant. -/
def storeBlock (g : Grant) (i : Nat) (b : Block) (s : State) : State :=
  match g.target with
  | .piece id =>
    match (pieceOf id s).bind (·.slots[i]?) with
    | none => s
    | some k => writeSlot k b (modPiece id (fun p => { p with filled := joinSet i p.filled }) s)
  | .buffer => fillBuffer (Fin.ofNat 2 i) b s

/-- R63: a block of a grant arrives; a second frame for a filled offset is unexpected (R65). -/
def blockArrives (g : Grant) (i : Nat) (b : Block) (s : State) : State :=
  if i ∈ filledOf g s then setFlag .link s
  else
    let s := storeBlock g i b s
    if missingOf g s = [] then grantFilled g s else s

/-- R63, R65: a DATA frame from the host. -/
def dataArrives (t : Tag) (off : Nat) (b : Block) (s : State) : State :=
  match s.ulc.grants.find? (covers t off) with
  | some g => blockArrives g (off - g.first) b s
  | none => if off ∈ s.ulc.withdrawn[t] then s else setFlag .link s

/-! ### GRANT_TIME (R64, R119) -/

/-- R119: the data of a MAP STAGE is late. -/
def stageLate (g : Grant) (missing : Nat) (s : State) : State :=
  complete g.tag .failed .dataTimeout 0 missing (mguIdle (withdrawGrant g s))

/-- R64, R119: the timer of a grant expires with blocks missing. -/
def grantExpires (g : Grant) (s : State) : State :=
  match missingOf g s with
  | [] => s
  | i :: _ =>
    match g.target with
    | .piece id => sourceFails id i .dataTimeout s
    | .buffer => stageLate g i s

/-- R64: the expiry of the GRANT_TIME timer of the grant that a tag and a first offset name. -/
def grantTimeUp (t : Tag) (first : Nat) (s : State) : State :=
  match s.ulc.grants.find? fun g => g.tag = t && g.first = first with
  | none => s
  | some g => grantExpires g s

/-! ### Link reset (R49, R73, R113, R136, R171, R176, R22) -/

/-- R73: a piece of a request at a link reset. -/
def resetPiece (id : PieceId) (s : State) : State :=
  match pieceOf id s with
  | none => s
  | some p =>
    match p.owner, p.state with
    | .tag _, .queued | .tag _, .filling | .tag _, .delivering => detachPiece id s
    | .tag _, _ => modPiece id (fun p => { p with owner := .discard }) s
    | _, _ => s

/-- R73, R113: PSC and MVE at a link reset; the pass-over counts are kept. -/
def resetTraffic (s : State) : State :=
  let counts := s.spa.passOver
  let s := abortMove .failed .none 0 false (allPieces.foldl (fun s id => resetPiece id s) s)
  s.setSpa { s.spa with passOver := counts }

/-- R176: a frame that a link reset keeps. -/
def keptAtReset (f : TxFrame) : Bool :=
  match f with
  | .cmpl _ _ | .peekData _ _ => true
  | _ => false

/-- R136: a store operation goes on without its tag. -/
def detachOp (op : StoreOp) : StoreOp :=
  match op with
  | .idle => .idle
  | .saving step img _ => .saving step img none
  | .wiping _ => .wiping none

/-- R93: offline pending stays as it is, without its tag. -/
def detachPending (x : Port) : Port :=
  match x.offlinePending with
  | .yes _ => { x with offlinePending := .yes none }
  | .no => x

/-- R178: a link reset, block by block. -/
def linkResetTaken (s : State) : State :=
  let s := resetTraffic s
  let s := s.setRqt ⟨Vector.replicate 16 none, [], [], [], [], []⟩
  let s := s.setUlc ⟨s.ulc.tx.filter keptAtReset, [], Vector.replicate 16 []⟩
  let s := closeStaging s
  let s := s.setMst { s.mst with op := detachOp s.mst.op }
  let s := s.setPorts (mapVec detachPending s.ports)
  s.setMgu { s.mgu with
    exec := if s.mgu.exec = .stopped then .stopped else .idle, executing := none, buffer := Vector.replicate 2 none }

/-! ### Raw frames (R174, R175) -/

/-- R175: a frame that passed the tests is dispatched. -/
def dispatchMessage (m : HostMessage) (s : State) : State :=
  match m with
  | .req r => requestArrives r s
  | .data t off b => dataArrives t off.toNat b s
  | .cancel t => cancelArrives t s
  | .reset => linkResetTaken s

/-- R174: a frame arrives as its bytes: a test discards it and sets LINK, or it is dispatched. -/
def frameArrives (frame : List Byte) (s : State) : State :=
  match hostMessage frame with
  | none => setFlag .link s
  | some m => dispatchMessage m s

/-! ### Departures (R67, R126, R163, R176) -/

/-- R67: the frame of a delivering piece has left: its slot is released, and the next block is handed over or the
piece ends DONE. -/
def blockDelivered (id : PieceId) (s : State) : State :=
  match pieceOf id s with
  | none => s
  | some q =>
    let s := releaseSlots (q.slots.take 1) (modPiece id (fun q => { q with slots := q.slots.tail }) s)
    if q.slots.length ≤ 1 then pieceEnds id .done (some q.port) s else handBlock id s

/-- R67, R176: the DATA frame of a READ at the front of the transmit list leaves. -/
def readDataLeaves (s : State) : State :=
  match s.ulc.tx with
  | .readData id t off b :: _ => blockDelivered id (frameLeaves (.data t off b) s)
  | _ => s

/-- R126, R161: a management request with data completes; the detail of MAP READ is its record count. Its buffer is
emptied, that of a MAP READ too (MODEL'S CHOICE, log 27). -/
def managementDataEnds (t : Tag) (s : State) : State :=
  let detail := ((entryOf t s).map fun e => if e.kind = .mapRead then e.p2.toNat else 0).getD 0
  complete t .good .none 0 detail (mguIdle s)

/-- R163: the STATUS frame leaves: its record is composed, then the flags and LAPSE are cleared. -/
def statusLeaves (t : Tag) (s : State) : State :=
  managementDataEnds t (setLapse false (clearFlags (frameLeaves (.data t 0 (statusRecord s)) s)))

/-- A data frame of a management request other than PEEK still to be sent. -/
def isMgmtData (f : TxFrame) : Bool :=
  match f with
  | .mgmtData _ _ _ => true
  | _ => false

/-- R126, R161, R163: the DATA frame of a management request at the front of the transmit list leaves. -/
def managementDataLeaves (s : State) : State :=
  match s.ulc.tx with
  | .mgmtData t off b :: rest =>
    let s := frameLeaves (.data t off b) s
    if rest.any isMgmtData then s else managementDataEnds t s
  | .statusData t :: _ => statusLeaves t s
  | _ => s

/-- R142: the CMPL of a RESTART leaves and the part starts. -/
def restartLeaves (s : State) : State :=
  match s.ulc.tx with
  | .cmpl c true :: _ => startUp .restart (frameLeaves (.cmpl c) s)
  | _ => s

/-- R176: a CMPL, a GRANT or the DATA frame of a PEEK leaves. -/
def otherFrameLeaves (s : State) : State :=
  match s.ulc.tx with
  | .cmpl c false :: _ => frameLeaves (.cmpl c) s
  | .grant t first count :: _ => frameLeaves (.grant t first count) s
  | .peekData t b :: _ => frameLeaves (.data t 0 b) s
  | _ => s

end Sys2Proof.Machine
end

