-- ==== Sys2Proof/Machine/Steps.lean ====
section
/-! DEFINITION. The steps that the part takes by itself: resolution at the intake head (R10 to R15), the resolution
of a FLUSH (R47), and the order in which due steps are taken around the other commands (log 10). -/

namespace Sys2Proof.Machine

/-! ### Resolution (R10 to R15) -/

/-- R10, R11: the refusal of an entry at the intake head, with cause and detail. -/
def headRefusal (e : Entry) (s : State) : Option (Cause × Nat) :=
  if s.svm.partState = .bare then some (.noMap, 0)
  else if s.svm.partState = .fenced ∧ e.kind = .write then some (.fenced, 0)
  else firstRefused s.xmp.active e.kind e.unit e.lba.toNat e.count

/-- R12, R15: the segments that the intake head would take. -/
def headSegments (e : Entry) (s : State) : List Segment :=
  segmentsOf s.xmp.active s.mve e.kind e.unit e.lba.toNat e.count

/-- R104: the tag of a WRITE with dual segments joins the dual set. -/
def reportDual (t : Tag) (gs : List Segment) (s : State) : State :=
  if gs.any isDual then s.setMve (s.mve.map fun m => { m with dual := joinSet t m.dual }) else s

/-- R13: a request takes its segments and joins the active list. -/
def resolveHead (t : Tag) (e : Entry) (gs : List Segment) (s : State) : State :=
  let s := setEntry t (some { e with state := .active, segments := gs, cutSeg := 0, cutOff := 0 }) s
  let s := s.setRqt { s.rqt with intake := leaveSet t s.rqt.intake, active := s.rqt.active ++ [t] }
  reportDual t gs s

/-- R10: the intake head is refused or resolved; it waits in LOADING and while segment records are short. -/
def intakeStep (s : State) : Option State :=
  if s.svm.partState = .loading then none
  else
    match s.rqt.intake with
    | [] => none
    | t :: _ =>
      match entryOf t s with
      | none => none
      | some e =>
        match headRefusal e s with
        | some (c, detail) => some (complete t .refused c e.count detail s)
        | none =>
          if (headSegments e s).length ≤ freeSegments s then some (resolveHead t e (headSegments e s) s) else none

/-! ### FLUSH (R47) -/

/-- R47: the FLUSH in BARRIER that arrived first among those with an empty wait set. -/
def readyFlush (s : State) : Option Tag :=
  s.rqt.barrier.find? fun t => (entryOf t s).any fun e => e.waitSet = []

/-- R47: a FLUSH resolves. -/
def resolveFlush (t : Tag) (e : Entry) (s : State) : State :=
  if s.svm.partState = .bare then complete t .refused .noMap 0 0 s
  else
    match flushPorts s.xmp.active s.mve e.unit with
    | [] => complete t .good .none 0 0 s
    | ps =>
      let s := setEntry t (some { e with state := .active, flPorts := ps.map fun p => (p, .uncut) }) s
      s.setRqt { s.rqt with barrier := leaveSet t s.rqt.barrier, flushing := s.rqt.flushing ++ [t] }

/-- R47: one FLUSH leaves BARRIER; none does in LOADING. -/
def flushStep (s : State) : Option State :=
  if s.svm.partState = .loading then none
  else
    match readyFlush s with
    | none => none
    | some t => (entryOf t s).map fun e => resolveFlush t e s

/-! ### Due steps and the commands around them (log 10) -/

/-- R59, R101: what every event brings with it: the blocking set loses its finished tags, and the heads of READY ports
are taken. -/
def finish (s : State) : State := serveHeads (refreshBlocking s)

/-- The first of a list of steps that can be taken. -/
def firstStep : List (State → Option State) → State → Option State
  | [], _ => none
  | f :: fs, s =>
    match f s with
    | some t => some t
    | none => firstStep fs s

/-- Takes a step again and again until it cannot be taken, at most `n` times. -/
def drain (f : State → Option State) : Nat → State → State
  | 0, s => s
  | n + 1, s =>
    match f s with
    | none => s
    | some t => drain f n (finish t)

/-- The steps that the rules place at the event that enables them (R47, R48, R61, R101, R102, R106). MODEL'S CHOICE
(log 24): the rules give no order among those that one event makes due, nor between them and the abort of a move at that
event. The model takes them after the abort; the switch first, so that a FLUSH of the same event reads the map after it
(R18), then the FLUSH, the release of the chunk, the cuts in the order of R54, and SPA's consideration last. -/
def promptStep : State → Option State :=
  firstStep [switchStep, flushStep, blockingStep, flCutStep, cpCutStep, slotGrantStep]

/-- The steps that are events of their own (R10, R55, R160), after the prompt ones. -/
def dueStep : State → Option State := firstStep [promptStep, intakeStep, cutStep, mguStep]

/-- A bound on the steps that follow one event (log 10). -/
def stepBound : Nat := 1024

/-- The part after the prompt steps that are due. -/
def settlePrompt (s : State) : State := drain promptStep stepBound s

/-- The part after every step that is due. -/
def settle (s : State) : State := drain dueStep stepBound s

/-- An event from outside: it reaches a part that has taken its due steps; without power or in reset it is not taken
(R139). -/
def event (f : State → State) (s : State) : State := if running s then finish (f (settle s)) else s

/-- A step of the part: taken when it can be, and nothing otherwise (log 11). -/
def ownStep (f : State → Option State) (s : State) : State :=
  if running s then
    match f s with
    | some t => finish t
    | none => s
  else s

/-- A step that is an event of its own, after the prompt steps of the event before it. -/
def ownEvent (f : State → Option State) (s : State) : State :=
  if running s then
    let u := settlePrompt s
    match f u with
    | some t => finish t
    | none => u
  else s

end Sys2Proof.Machine
end

