-- ==== Sys2Proof/Machine/DataRequests.lean ====
section
/-! DEFINITION. The meanings of the data requests READ, WRITE, VERIFY and FLUSH: their arrival (R25 to R27, R46). -/

namespace Sys2Proof.Machine

/-- READ (R27). -/
def execRead (tag : Tag) (unit count : Byte) (lba : Word) (s : State) : Host.Outcome State Fault Refusal :=
  .next (event (requestArrives (dataRequest .read tag unit count lba)) s)

/-- WRITE (R27). -/
def execWrite (tag : Tag) (unit count : Byte) (lba : Word) (s : State) : Host.Outcome State Fault Refusal :=
  .next (event (requestArrives (dataRequest .write tag unit count lba)) s)

/-- VERIFY (R27). -/
def execVerify (tag : Tag) (unit count : Byte) (lba : Word) (s : State) : Host.Outcome State Fault Refusal :=
  .next (event (requestArrives (dataRequest .verify tag unit count lba)) s)

/-- FLUSH (R46); its count and LBA fields are not read. -/
def execFlush (tag : Tag) (unit : Byte) (s : State) : Host.Outcome State Fault Refusal :=
  .next (event (requestArrives (dataRequest .flush tag unit 0 0)) s)

end Sys2Proof.Machine
end

