-- ==== Sys2Proof/Machine/InternalSteps.lean ====
section
/-! DEFINITION. The meanings of the steps that the part takes by itself. A step that cannot be taken changes nothing
(log 11). -/

namespace Sys2Proof.Machine

/-- INTAKE_HEAD_RESOLUTION (R10 to R15). -/
def execIntakeHeadResolution (s : State) : Host.Outcome State Fault Refusal := .next (ownEvent intakeStep s)

/-- CUT_EVENT (R55 to R57). -/
def execCutEvent (s : State) : Host.Outcome State Fault Refusal := .next (ownEvent cutStep s)

/-- FLUSH_RESOLUTION (R47). -/
def execFlushResolution (s : State) : Host.Outcome State Fault Refusal := .next (ownStep flushStep s)

/-- FL_PIECE_CUT (R48). -/
def execFlPieceCut (s : State) : Host.Outcome State Fault Refusal := .next (ownStep flCutStep s)

/-- SLOT_GRANT (R61 to R63). -/
def execSlotGrant (s : State) : Host.Outcome State Fault Refusal := .next (ownStep slotGrantStep s)

/-- MGU_TAKES_HEAD (R160). -/
def execMguTakesHead (s : State) : Host.Outcome State Fault Refusal := .next (ownEvent mguStep s)

/-- BLOCKING_SET_EMPTIES (R101). -/
def execBlockingSetEmpties (s : State) : Host.Outcome State Fault Refusal := .next (ownStep blockingStep s)

/-- CP_PIECE_CUT (R102). -/
def execCpPieceCut (s : State) : Host.Outcome State Fault Refusal := .next (ownStep cpCutStep s)

/-- MOVE_SWITCH (R106). -/
def execMoveSwitch (s : State) : Host.Outcome State Fault Refusal := .next (ownStep switchStep s)

end Sys2Proof.Machine
end

