-- ==== Sys2Proof/Machine/Lines.lean ====
section
/-! DEFINITION. The meanings of the line and power events (R79, R80, R137, R139, R151). The level of a line is kept
also while the part takes no event, since a start-up reads it (R95, R151). -/

namespace Sys2Proof.Machine

/-- The level of PRESENTn of a port. -/
def setPresent (p : PortId) (low : Bool) (s : State) : State :=
  s.setPins { s.pins with presentLow := s.pins.presentLow.set p low }

/-- The level of WPn. -/
def setWpn (low : Bool) (s : State) : State := s.setPins { s.pins with wpnLow := low }

/-- The level of RESETn. -/
def setReset (low : Bool) (s : State) : State := s.setPins { s.pins with resetLow := low }

/-- Power good or lost; a loss forgets that a start-up was taken since power was applied (R139). -/
def setPower (on : Bool) (s : State) : State :=
  s.setPins { s.pins with powered := on, started := on && s.pins.started }

/-- R137, R139: the part stops taking events: its due steps are behind it, and the store write is cut off. -/
def stopPart (s : State) : State := if running s then cutOffStore (settle s) else s

/-- PRESENTn goes low or high: its event when the level changes, and the level. -/
def presentChanges (p : PortId) (low : Bool) (f : State → State) (s : State) : State :=
  setPresent p low (if s.pins.presentLow[p] = low then s else event f s)

/-- PRESENTN_ASSERTED (R79). -/
def execPresentnAsserted (port : PortId) (s : State) : Host.Outcome State Fault Refusal :=
  .next (presentChanges port true (unitAppears port) s)

/-- PRESENTN_RELEASED (R80). -/
def execPresentnReleased (port : PortId) (s : State) : Host.Outcome State Fault Refusal :=
  .next (presentChanges port false (unitGone port) s)

/-- WPN_ASSERTED (R151). -/
def execWpnAsserted (s : State) : Host.Outcome State Fault Refusal :=
  .next (setWpn true (event (addCause .pin) s))

/-- WPN_RELEASED (R151). -/
def execWpnReleased (s : State) : Host.Outcome State Fault Refusal :=
  .next (setWpn false (event (removeCause .pin) s))

/-- RESETN_ASSERTED (R137, R139). -/
def execResetnAsserted (s : State) : Host.Outcome State Fault Refusal := .next (setReset true (stopPart s))

/-- R139: the release of RESETn starts a part that has power. -/
def releaseReset (s : State) : State :=
  let s' := setReset false s
  if s.pins.resetLow ∧ s.pins.powered then startUpByLines s' else s'

/-- RESETN_RELEASED (R139). -/
def execResetnReleased (s : State) : Host.Outcome State Fault Refusal := .next (releaseReset s)

/-- R139: power becomes good: the part starts, or waits for the release of RESETn. -/
def applyPower (s : State) : State :=
  if s.pins.powered then s
  else
    let s := setPower true s
    if s.pins.resetLow then s else startUpByLines s

/-- POWER_ON (R139). -/
def execPowerOn (s : State) : Host.Outcome State Fault Refusal := .next (applyPower s)

/-- POWER_LOSS (R137). -/
def execPowerLoss (s : State) : Host.Outcome State Fault Refusal := .next (setPower false (stopPart s))

end Sys2Proof.Machine
end

