-- ==== Sys2Proof/Machine/LinkFrames.lean ====
section
/-! DEFINITION. The meanings of the other frames of the upstream link: raw frames, DATA, CANCEL and RESET from the
host, and the departures of the part's own frames (R172 to R178). -/

namespace Sys2Proof.Machine

/-- BAD_FRAME (R174): a frame given as its bytes; one that passes every test is dispatched (log 14). -/
def execBadFrame (frame : List Byte) (s : State) : Host.Outcome State Fault Refusal :=
  .next (event (frameArrives frame) s)

/-- HOST_DATA (R63, R65, R118). -/
def execHostData (tag : Tag) (offset : Half) (payload : Block) (s : State) : Host.Outcome State Fault Refusal :=
  .next (event (dataArrives tag offset.toNat payload) s)

/-- CANCEL (R43). -/
def execCancel (tag : Tag) (s : State) : Host.Outcome State Fault Refusal := .next (event (cancelArrives tag) s)

/-- LINK_RESET (R178). -/
def execLinkReset (s : State) : Host.Outcome State Fault Refusal := .next (event linkResetTaken s)

/-- READ_DATA_DEPARTS (R67). -/
def execReadDataDeparts (s : State) : Host.Outcome State Fault Refusal := .next (event readDataLeaves s)

/-- MGMT_DATA_DEPARTS (R126, R161, R163). -/
def execMgmtDataDeparts (s : State) : Host.Outcome State Fault Refusal := .next (event managementDataLeaves s)

/-- RESTART_CMPL_DEPARTS (R142). -/
def execRestartCmplDeparts (s : State) : Host.Outcome State Fault Refusal := .next (event restartLeaves s)

/-- FRAME_DEPARTURE (R176). -/
def execFrameDeparture (s : State) : Host.Outcome State Fault Refusal := .next (event otherFrameLeaves s)

end Sys2Proof.Machine
end

