-- ==== Sys2Proof/Machine/ManagementRequests.lean ====
section
/-! DEFINITION. The meanings of the management requests: their arrival (R25 to R28), with what MGU does at that event
when it takes the request at once (R159, R160). -/

namespace Sys2Proof.Machine

/-- IDENTIFY (R161). -/
def execIdentify (tag : Tag) (unit : Byte) (s : State) :
    Host.Outcome State Fault Refusal :=
  .next (event (requestArrives (paramRequest .identify tag unit 0 0 0)) s)

/-- STATUS (R163). -/
def execStatus (tag : Tag) (unit : Byte) (s : State) :
    Host.Outcome State Fault Refusal :=
  .next (event (requestArrives (paramRequest .status tag unit 0 0 0)) s)

/-- PEEK (R164). -/
def execPeek (tag : Tag) (unit : Byte) (s : State) :
    Host.Outcome State Fault Refusal :=
  .next (event (requestArrives (paramRequest .peek tag unit 0 0 0)) s)

/-- SETUP (R150, R165). -/
def execSetup (tag : Tag) (unit : Byte) (timeoutCode mode periodCode : Word) (s : State) :
    Host.Outcome State Fault Refusal :=
  .next (event (requestArrives (paramRequest .setup tag unit timeoutCode mode periodCode)) s)

/-- KEEPALIVE (R147). -/
def execKeepalive (tag : Tag) (unit : Byte) (s : State) :
    Host.Outcome State Fault Refusal :=
  .next (event (requestArrives (paramRequest .keepalive tag unit 0 0 0)) s)

/-- UNFENCE (R155). -/
def execUnfence (tag : Tag) (unit : Byte) (s : State) :
    Host.Outcome State Fault Refusal :=
  .next (event (requestArrives (paramRequest .unfence tag unit 0 0 0)) s)

/-- MAP OPEN (R116). -/
def execMapOpen (tag : Tag) (unit : Byte) (s : State) :
    Host.Outcome State Fault Refusal :=
  .next (event (requestArrives (paramRequest .mapOpen tag unit 0 0 0)) s)

/-- MAP STAGE (R117). -/
def execMapStage (tag : Tag) (unit : Byte) (firstIndex recordCount : Word) (s : State) :
    Host.Outcome State Fault Refusal :=
  .next (event (requestArrives (paramRequest .mapStage tag unit firstIndex recordCount 0)) s)

/-- MAP COMMIT (R120, R122). -/
def execMapCommit (tag : Tag) (unit : Byte) (s : State) :
    Host.Outcome State Fault Refusal :=
  .next (event (requestArrives (paramRequest .mapCommit tag unit 0 0 0)) s)

/-- MAP DISCARD (R124). -/
def execMapDiscard (tag : Tag) (unit : Byte) (s : State) :
    Host.Outcome State Fault Refusal :=
  .next (event (requestArrives (paramRequest .mapDiscard tag unit 0 0 0)) s)

/-- MAP READ (R125). -/
def execMapRead (tag : Tag) (unit : Byte) (selector firstIndex recordCount : Word) (s : State) :
    Host.Outcome State Fault Refusal :=
  .next (event (requestArrives (paramRequest .mapRead tag unit selector firstIndex recordCount)) s)

/-- MAP SAVE (R130). -/
def execMapSave (tag : Tag) (unit : Byte) (s : State) :
    Host.Outcome State Fault Refusal :=
  .next (event (requestArrives (paramRequest .mapSave tag unit 0 0 0)) s)

/-- LOCK (R130). -/
def execLock (tag : Tag) (unit : Byte) (s : State) :
    Host.Outcome State Fault Refusal :=
  .next (event (requestArrives (paramRequest .lock tag unit 0 0 0)) s)

/-- UNLOCK (R134). -/
def execUnlock (tag : Tag) (unit : Byte) (s : State) :
    Host.Outcome State Fault Refusal :=
  .next (event (requestArrives (paramRequest .unlock tag unit 0 0 0)) s)

/-- RESTART (R142). -/
def execRestart (tag : Tag) (unit : Byte) (s : State) :
    Host.Outcome State Fault Refusal :=
  .next (event (requestArrives (paramRequest .restart tag unit 0 0 0)) s)

/-- MOVE (R98, R99). -/
def execMove (tag : Tag) (unit dataUnit destPort : Byte) (logicalStart destStart : Word) (s : State) :
    Host.Outcome State Fault Refusal :=
  .next (event (requestArrives
    (paramRequest .move tag unit (moveWord dataUnit destPort) logicalStart destStart)) s)

/-- PORT with action OFFLINE (R92, R93, R166). -/
def execPortOffline (tag : Tag) (unit : Byte) (port : Word) (s : State) : Host.Outcome State Fault Refusal :=
  .next (event (requestArrives (paramRequest .port tag unit port 0 0)) s)

/-- PORT with action ONLINE (R92, R94, R166). -/
def execPortOnline (tag : Tag) (unit : Byte) (port : Word) (s : State) : Host.Outcome State Fault Refusal :=
  .next (event (requestArrives (paramRequest .port tag unit port 1 0)) s)

end Sys2Proof.Machine
end

