-- ==== Sys2Proof/Machine/MediaFrames.lean ====
section
/-! DEFINITION. The meanings of the frames that arrive on the media links (R66, R76, R84, R89). A frame whose check
word does not match is discarded (R76). -/

namespace Sys2Proof.Machine

/-- R76: a media frame acts when its check word matches. -/
def ifChecked (check : Bool) (f : State → State) (s : State) : State := if check then f s else s

/-- MEDIA_DATA (R76). -/
def execMediaData (port : PortId) (check : Bool) (index : Fin 8) (payload : Block) (s : State) :
    Host.Outcome State Fault Refusal :=
  .next (event (ifChecked check (mediaBlock port index.val payload)) s)

/-- MEDIA_STS_OK (R66). -/
def execMediaStsOk (port : PortId) (check : Bool) (s : State) : Host.Outcome State Fault Refusal :=
  .next (event (ifChecked check (statusOk port)) s)

/-- MEDIA_STS_ERROR (R66). -/
def execMediaStsError (port : PortId) (check : Bool) (index : Fin 8) (kind : MediaError) (s : State) :
    Host.Outcome State Fault Refusal :=
  .next (event (ifChecked check (statusError port index.val kind)) s)

/-- MEDIA_STS_NOT_READY (R89). -/
def execMediaStsNotReady (port : PortId) (check : Bool) (s : State) : Host.Outcome State Fault Refusal :=
  .next (event (ifChecked check (statusNotReady port)) s)

/-- MEDIA_STS_INQUIRY (R84). -/
def execMediaStsInquiry (port : PortId) (check : Bool) (capacity : Word) (ready : Bool) (s : State) :
    Host.Outcome State Fault Refusal :=
  .next (event (ifChecked check (statusInquiry port capacity ready)) s)

end Sys2Proof.Machine
end

