-- ==== Sys2Proof/Machine/StoreEvents.lean ====
section
/-! DEFINITION. The meanings of the store's events: the ends of its writes and of the start-up read (R129, R132, R133,
R141). -/

namespace Sys2Proof.Machine

/-- STORE_WRITE_END_GOOD (R129). -/
def execStoreWriteEndGood (s : State) : Host.Outcome State Fault Refusal := .next (event goodWriteEnd s)

/-- STORE_WRITE_END_BAD (R132). -/
def execStoreWriteEndBad (s : State) : Host.Outcome State Fault Refusal := .next (event badWriteEnd s)

/-- START_UP_READ_END (R141). -/
def execStartUpReadEnd (s : State) : Host.Outcome State Fault Refusal := .next (event readEnd s)

end Sys2Proof.Machine
end

