-- ==== Sys2Proof/Machine/Timers.lean ====
section
/-! DEFINITION. The meanings of the timer expiries (R64, R85, R88, R119, R146). A timer that is not running does not
expire. -/

namespace Sys2Proof.Machine

/-- R88: the piece timer of a port expires with its command outstanding. -/
def pieceTimeUp (p : PortId) (s : State) : State :=
  match (portOf p s).pieceTimer, pieceAtMedia p s with
  | some _, some (id, _, _) => portFault p id s
  | _, _ => s

/-- R85: the probe timer of a port expires. -/
def probeTimeUp (p : PortId) (s : State) : State := if (portOf p s).probeTimer then probeFails p s else s

/-- R146: FIRST expires and SECOND starts. -/
def enterSecondHalf (s : State) : State := s.setSvm { s.svm with timer := .second }

/-- R146: an expiry of the supervision timer in phase `x` acts when the timer runs in it. -/
def phaseUp (x : Timer) (f : State → State) (s : State) : State := if s.svm.timer = x then f s else s

/-- GRANT_TIME_EXPIRY (R64, R119) of the grant that its tag and first offset name. -/
def execGrantTimeExpiry (tag : Tag) (first : Half) (s : State) : Host.Outcome State Fault Refusal :=
  .next (event (grantTimeUp tag first.toNat) s)

/-- PIECE_TIMER_EXPIRY (R88). -/
def execPieceTimerExpiry (port : PortId) (s : State) : Host.Outcome State Fault Refusal :=
  .next (event (pieceTimeUp port) s)

/-- PROBE_TIMER_EXPIRY (R85). -/
def execProbeTimerExpiry (port : PortId) (s : State) : Host.Outcome State Fault Refusal :=
  .next (event (probeTimeUp port) s)

/-- FULL_EXPIRY (R146). -/
def execFullExpiry (s : State) : Host.Outcome State Fault Refusal := .next (event (phaseUp .full supervisionFailure) s)

/-- FIRST_EXPIRY (R146). -/
def execFirstExpiry (s : State) : Host.Outcome State Fault Refusal := .next (event (phaseUp .first enterSecondHalf) s)

/-- SECOND_EXPIRY (R146). -/
def execSecondExpiry (s : State) : Host.Outcome State Fault Refusal :=
  .next (event (phaseUp .second supervisionFailure) s)

end Sys2Proof.Machine
end

