-- ==== Sys2Proof/Machine/Dispatch.lean ====
section
/-! DEFINITION. Which meaning each command has. -/

namespace Sys2Proof.Machine

def exec (i : Instr) (s : State) : Host.Outcome State Fault Refusal :=
  match i with
  | .read tag unit count lba => Sys2Proof.Machine.execRead tag unit count lba s
  | .write tag unit count lba => Sys2Proof.Machine.execWrite tag unit count lba s
  | .verify tag unit count lba => Sys2Proof.Machine.execVerify tag unit count lba s
  | .flush tag unit => Sys2Proof.Machine.execFlush tag unit s
  | .identify tag unit => Sys2Proof.Machine.execIdentify tag unit s
  | .status tag unit => Sys2Proof.Machine.execStatus tag unit s
  | .peek tag unit => Sys2Proof.Machine.execPeek tag unit s
  | .setup tag unit timeoutCode mode periodCode => Sys2Proof.Machine.execSetup tag unit timeoutCode mode periodCode s
  | .keepalive tag unit => Sys2Proof.Machine.execKeepalive tag unit s
  | .unfence tag unit => Sys2Proof.Machine.execUnfence tag unit s
  | .mapOpen tag unit => Sys2Proof.Machine.execMapOpen tag unit s
  | .mapStage tag unit firstIndex recordCount => Sys2Proof.Machine.execMapStage tag unit firstIndex recordCount s
  | .mapCommit tag unit => Sys2Proof.Machine.execMapCommit tag unit s
  | .mapDiscard tag unit => Sys2Proof.Machine.execMapDiscard tag unit s
  | .mapRead tag unit selector firstIndex recordCount => Sys2Proof.Machine.execMapRead tag unit selector firstIndex recordCount s
  | .mapSave tag unit => Sys2Proof.Machine.execMapSave tag unit s
  | .lock tag unit => Sys2Proof.Machine.execLock tag unit s
  | .unlock tag unit => Sys2Proof.Machine.execUnlock tag unit s
  | .move tag unit dataUnit destPort logicalStart destStart => Sys2Proof.Machine.execMove tag unit dataUnit destPort logicalStart destStart s
  | .portOffline tag unit port => Sys2Proof.Machine.execPortOffline tag unit port s
  | .portOnline tag unit port => Sys2Proof.Machine.execPortOnline tag unit port s
  | .restart tag unit => Sys2Proof.Machine.execRestart tag unit s
  | .badFrame frame => Sys2Proof.Machine.execBadFrame frame s
  | .hostData tag offset payload => Sys2Proof.Machine.execHostData tag offset payload s
  | .cancel tag => Sys2Proof.Machine.execCancel tag s
  | .linkReset => Sys2Proof.Machine.execLinkReset s
  | .readDataDeparts => Sys2Proof.Machine.execReadDataDeparts s
  | .mgmtDataDeparts => Sys2Proof.Machine.execMgmtDataDeparts s
  | .restartCmplDeparts => Sys2Proof.Machine.execRestartCmplDeparts s
  | .grantTimeExpiry tag first => Sys2Proof.Machine.execGrantTimeExpiry tag first s
  | .pieceTimerExpiry port => Sys2Proof.Machine.execPieceTimerExpiry port s
  | .probeTimerExpiry port => Sys2Proof.Machine.execProbeTimerExpiry port s
  | .fullExpiry => Sys2Proof.Machine.execFullExpiry s
  | .firstExpiry => Sys2Proof.Machine.execFirstExpiry s
  | .secondExpiry => Sys2Proof.Machine.execSecondExpiry s
  | .mediaData port check index payload => Sys2Proof.Machine.execMediaData port check index payload s
  | .mediaStsOk port check => Sys2Proof.Machine.execMediaStsOk port check s
  | .mediaStsError port check index kind => Sys2Proof.Machine.execMediaStsError port check index kind s
  | .mediaStsNotReady port check => Sys2Proof.Machine.execMediaStsNotReady port check s
  | .mediaStsInquiry port check capacity ready => Sys2Proof.Machine.execMediaStsInquiry port check capacity ready s
  | .presentnAsserted port => Sys2Proof.Machine.execPresentnAsserted port s
  | .presentnReleased port => Sys2Proof.Machine.execPresentnReleased port s
  | .wpnAsserted => Sys2Proof.Machine.execWpnAsserted s
  | .wpnReleased => Sys2Proof.Machine.execWpnReleased s
  | .resetnAsserted => Sys2Proof.Machine.execResetnAsserted s
  | .resetnReleased => Sys2Proof.Machine.execResetnReleased s
  | .powerOn => Sys2Proof.Machine.execPowerOn s
  | .powerLoss => Sys2Proof.Machine.execPowerLoss s
  | .storeWriteEndGood => Sys2Proof.Machine.execStoreWriteEndGood s
  | .storeWriteEndBad => Sys2Proof.Machine.execStoreWriteEndBad s
  | .startUpReadEnd => Sys2Proof.Machine.execStartUpReadEnd s
  | .intakeHeadResolution => Sys2Proof.Machine.execIntakeHeadResolution s
  | .cutEvent => Sys2Proof.Machine.execCutEvent s
  | .flushResolution => Sys2Proof.Machine.execFlushResolution s
  | .flPieceCut => Sys2Proof.Machine.execFlPieceCut s
  | .slotGrant => Sys2Proof.Machine.execSlotGrant s
  | .mguTakesHead => Sys2Proof.Machine.execMguTakesHead s
  | .blockingSetEmpties => Sys2Proof.Machine.execBlockingSetEmpties s
  | .cpPieceCut => Sys2Proof.Machine.execCpPieceCut s
  | .moveSwitch => Sys2Proof.Machine.execMoveSwitch s
  | .frameDeparture => Sys2Proof.Machine.execFrameDeparture s

end Sys2Proof.Machine
end

