-- ==== Sys2Proof/Safety.lean ====
section
/-! DEFINITION. The terms in which claims about the part are stated: the request that a command brings, what a
completion does, what an event leaves alone, and the invariants of the part. -/

namespace Sys2Proof.Machine

/-! ### Requests -/

/-- R175, R179: the request record that a command brings, if it is one of the requests. -/
def requestIn : Instr → Option Request
  | .read t u n lba => some (dataRequest .read t u n lba)
  | .write t u n lba => some (dataRequest .write t u n lba)
  | .verify t u n lba => some (dataRequest .verify t u n lba)
  | .flush t u => some (dataRequest .flush t u 0 0)
  | .identify t u => some (paramRequest .identify t u 0 0 0)
  | .status t u => some (paramRequest .status t u 0 0 0)
  | .peek t u => some (paramRequest .peek t u 0 0 0)
  | .setup t u a b c => some (paramRequest .setup t u a b c)
  | .keepalive t u => some (paramRequest .keepalive t u 0 0 0)
  | .unfence t u => some (paramRequest .unfence t u 0 0 0)
  | .mapOpen t u => some (paramRequest .mapOpen t u 0 0 0)
  | .mapStage t u a b => some (paramRequest .mapStage t u a b 0)
  | .mapCommit t u => some (paramRequest .mapCommit t u 0 0 0)
  | .mapDiscard t u => some (paramRequest .mapDiscard t u 0 0 0)
  | .mapRead t u a b c => some (paramRequest .mapRead t u a b c)
  | .mapSave t u => some (paramRequest .mapSave t u 0 0 0)
  | .lock t u => some (paramRequest .lock t u 0 0 0)
  | .unlock t u => some (paramRequest .unlock t u 0 0 0)
  | .move t u d p l q => some (paramRequest .move t u (moveWord d p) l q)
  | .portOffline t u p => some (paramRequest .port t u p 0 0)
  | .portOnline t u p => some (paramRequest .port t u p 1 0)
  | .restart t u => some (paramRequest .restart t u 0 0 0)
  | _ => none

/-- R159, R160: MGU takes a request that arrives now: the tag is FREE, MGU is IDLE, the part is not LOADING, and no
other management request waits. -/
def TakenAtOnce (t : Tag) (u : State) : Prop :=
  entryOf t u = none ∧ u.mgu.exec = .idle ∧ u.svm.partState ≠ .loading ∧ u.rqt.mgmt = []

/-! ### Events and entries -/

/-- The part in `s` takes events, and `u` is the part at the moment at which the next event from outside reaches it: `s`
after the steps that are due (log 10). -/
def StandsAt (s u : State) : Prop := running s = true ∧ settle s = u

/-- R23: an entry of a request as it is placed: no segments, no pieces, no outcome yet. -/
def freshEntry (st : EntryState) (k : Kind) (unit : Byte) (lba : Word) (count : Nat) (p0 p1 p2 : Word)
    (waitSet : List Tag) : Entry :=
  ⟨st, unit, k, lba, count, p0, p1, p2, [], 0, 0, 0, [], none, false, waitSet, []⟩

/-- R25, R65: `u` with an entry taken under a tag, whose withdrawn set is emptied. -/
def takeEntry (t : Tag) (e : Entry) (u : State) : State :=
  (u.setRqt { u.rqt with entries := u.rqt.entries.set t (some e) }).setUlc
    { u.ulc with withdrawn := u.ulc.withdrawn.set t [] }

/-- R160: `u` with a management request to unit 7 that MGU has taken at its arrival. -/
def takeManagement (t : Tag) (k : Kind) (p0 p1 p2 : Word) (u : State) : State :=
  takeEntry t (freshEntry .active k 7 0 0 p0 p1 p2 []) u

/-- R145: the supervision state with a fresh period of the settings held. -/
def periodStarts (set : Settings) (x : Svm) : Svm :=
  { x with timer := if set.mode = .timeout then .full else .first, periodMs := Config.periodMs set.periodCode }

/-! ### Frames and completions -/

/-- A frame of the transmit list other than a GRANT. -/
def notGrant (f : TxFrame) : Bool :=
  match f with
  | .grant _ _ _ => false
  | _ => true

/-- The frames handed over and not yet sent, GRANT frames aside. -/
def handed (s : State) : List TxFrame := s.ulc.tx.filter notGrant

/-- R41, R47: an entry without a tag in its wait set. -/
def forget (t : Tag) (e : Entry) : Entry := { e with waitSet := leaveSet t e.waitSet }

/-- R41: between `u` and `w` the request under a tag is answered: one CMPL is handed over, with the attention bit, the
part state and the generation of that event; the entry is FREE; the tag leaves every queue, list and wait set and the
sets of an active move; and its grants are withdrawn. Other entries, grants and withdrawn sets stay. -/
def Answers (t : Tag) (o : ReqOutcome) (c : Cause) (remaining detail : Nat) (u w : State) : Prop :=
  handed w = handed u ++ [.cmpl (completionOf t o c remaining detail w) false] ∧
  entryOf t w = none ∧
  (∀ t', t' ≠ t → entryOf t' w = (entryOf t' u).map (forget t)) ∧
  w.rqt.intake = leaveSet t u.rqt.intake ∧
  w.rqt.mgmt = leaveSet t u.rqt.mgmt ∧
  w.rqt.active = leaveSet t u.rqt.active ∧
  w.rqt.barrier = leaveSet t u.rqt.barrier ∧
  w.rqt.flushing = leaveSet t u.rqt.flushing ∧
  w.ulc.grants = u.ulc.grants.filter (·.tag ≠ t) ∧
  (∀ t', t' ≠ t → w.ulc.withdrawn[t'] = u.ulc.withdrawn[t']) ∧
  w.mve = u.mve.map fun m => { m with dual := leaveSet t m.dual, blocking := leaveSet t m.blocking }

/-! ### What an event leaves alone -/

/-- The pieces, queues, slots and ports, the record of the outgoing lines, the lines, the queue of commands and the
count of free values are as they were. -/
def SameMedia (u w : State) : Prop :=
  w.psc = u.psc ∧ w.spa = u.spa ∧ w.ports = u.ports ∧ w.out = u.out ∧ w.pins = u.pins ∧ w.draws = u.draws ∧
    w.pending = u.pending

/-- The map, the management unit, the store and the supervision state are as they were. -/
def SameManagement (u w : State) : Prop := w.xmp = u.xmp ∧ w.mgu = u.mgu ∧ w.mst = u.mst ∧ w.svm = u.svm

/-! ### Moves and supervision -/

/-- A move context but for its blocking set and its dual set, which every completion changes (R101, R104). -/
def moveBody (m : Option Move) : Option Move := m.map fun m => { m with dual := [], blocking := [] }

/-- R150, R179: the three codes of a SETUP name these settings. -/
def NamesSettings (timeoutCode mode periodCode : Word) (set : Settings) : Prop :=
  timeoutCode.toNat = set.timeoutCode.val ∧ periodCode.toNat = set.periodCode.val ∧
    mode.toNat = (match set.mode with | .off => 0 | .timeout => 1 | .window => 2)

/-- R146, R147, R150: the commands that are a supervision failure at `u`. -/
def FailsSupervision (c : Instr) (u : State) : Prop :=
  match c with
  | .fullExpiry => u.svm.timer = .full
  | .secondExpiry => u.svm.timer = .second
  | .keepalive t unit => unit = 7 ∧ entryOf t u = none ∧ u.svm.timer = .first
  | .setup t unit a b c =>
    unit = 7 ∧ TakenAtOnce t u ∧ ∃ set, NamesSettings a b c set ∧
      (set.mode ≠ u.mgu.settings.mode ∨ set.periodCode ≠ u.mgu.settings.periodCode)
  | _ => False

/-- A line or power event. -/
def movesLine : Instr → Bool
  | .presentnAsserted _ | .presentnReleased _ | .wpnAsserted | .wpnReleased | .resetnAsserted | .resetnReleased
  | .powerOn | .powerLoss => true
  | _ => false

/-! ### Outcomes (R33 to R40, R72) -/

/-- R40: the outcome, cause, count remaining and detail of a READ, WRITE or VERIFY that completes after resolution. -/
def outcomeAt (e : Entry) : ReqOutcome × Cause × Nat × Nat :=
  match e.failure with
  | some (f, c) => (.failed, c, remainingOf e, e.lba.toNat + f)
  | none => if remainingOf e = 0 then (.good, .none, 0, 0) else (.cancelled, .none, remainingOf e, 0)

/-- R41: in `w` a request has been answered: its entry is FREE and its CMPL, with the attention bit, part state and
generation of `w`, is in the transmit list. -/
def Answered (t : Tag) (o : ReqOutcome) (c : Cause) (remaining detail : Nat) (w : State) : Prop :=
  entryOf t w = none ∧ .cmpl (completionOf t o c remaining detail w) false ∈ w.ulc.tx

/-- R39, R40: an event leaves a READ, WRITE or VERIFY with the entry `e`: it stays so, or it completes, when every piece
has ended and no block remains to cut. -/
def HeldOrAnswered (t : Tag) (e : Entry) (w : State) : Prop :=
  if e.notEnded = 0 ∧ cuttable e = false then
    Answered t (outcomeAt e).1 (outcomeAt e).2.1 (outcomeAt e).2.2.1 (outcomeAt e).2.2.2 w
  else entryOf t w = some e

/-- R32: a READ, WRITE or VERIFY takes the outcome DONE of a piece. -/
def PieceDone (t : Tag) (e : Entry) (q : Piece) (w : State) : Prop :=
  HeldOrAnswered t { e with notEnded := e.notEnded - 1, done := e.done ++ (List.range q.count).map (q.offset + ·) } w

/-- R35: how many pieces of a request, the piece `id` aside, draining at offset `f` drops. -/
def drained (t : Tag) (id : PieceId) (f : Nat) (u : State) : Nat :=
  allPieces.countP fun j => j ≠ id && (pieceOf j u).any fun q => q.owner = .tag t && drainedBy f q

/-- R72: the piece `id` has ended: its record is free, it is in no queue, its slots are on the free list and no grant
names it. -/
def PieceGone (id : PieceId) (q : Piece) (w : State) : Prop :=
  pieceOf id w = none ∧ (∀ p, id ∉ queueOf p w) ∧ id ∉ w.psc.waiting ∧ (∀ k ∈ q.slots, k ∈ w.spa.free) ∧
    (∀ g ∈ w.ulc.grants, g.target ≠ .piece id)

/-- R65: between `u` and `w` the grants of the piece `id` have been withdrawn, the offsets that it had not filled with
them. -/
def GrantsWithdrawn (id : PieceId) (q : Piece) (u w : State) : Prop :=
  ∀ g ∈ u.ulc.grants, g.target = .piece id → ∀ i, i < g.count → i ∉ q.filled → g.first + i ∈ w.ulc.withdrawn[g.tag]

/-- R35, R44, R48, R65, R176: between `u` and `w` the pieces of the request under `t` that `drops` names, the piece `id`
aside, have ended: their records are free, their slots released, their grants withdrawn, and no frame of theirs is left
to send. (A piece in the order of SHADOW_WAIT is in no state that drops it.) -/
def PiecesDropped (t : Tag) (id : Option PieceId) (drops : Piece → Bool) (u w : State) : Prop :=
  ∀ j r, some j ≠ id → j ∉ u.psc.waiting → pieceOf j u = some r → r.owner = .tag t → drops r = true →
    PieceGone j r w ∧ GrantsWithdrawn j r u w ∧ ∀ t' n b, .readData j t' n b ∉ w.ulc.tx

/-- R35, R71: between `u` and `w` the pieces of the request under `t` that `drops` does not name, the piece `id` aside,
run on as they were, but for the shadow part of a piece that the end of its move in the same event takes off. -/
def PiecesRunOn (t : Tag) (id : Option PieceId) (drops : Piece → Bool) (u w : State) : Prop :=
  ∀ j r, some j ≠ id → pieceOf j u = some r → r.owner = .tag t → drops r = false →
    pieceOf j w = some r ∨
      ∃ m, u.mve = some m ∧ w.mve = none ∧ (j ∈ m.shadows ∨ j ∈ u.psc.waiting) ∧
        pieceOf j w = some { r with shadow := none }

/-- R34, R35: the pieces that the failure of a piece at request offset `f` drops: those that draining at `f` drops, when
it sets or lowers the failure point. -/
def failureDrops (e : Entry) (f : Nat) (r : Piece) : Bool := e.failure.all (f < ·.1) && drainedBy f r

/-- R34 to R36, R39: a READ, WRITE or VERIFY takes the outcome FAILED of the piece `id` at request offset `f`: the
failure point is set or lowered to it, the entry drains, and pieces wholly at or above it are dropped; an offset above
the failure point only ends the piece. -/
def FailureAtRequest (t : Tag) (e : Entry) (id : PieceId) (f : Nat) (c : Cause) (u w : State) : Prop :=
  if e.failure.all fun x => f < x.1 then
    HeldOrAnswered t { e with
      notEnded := e.notEnded - 1 - drained t id f u, failure := some (f, c), state := .draining } w ∧
    ∀ j q, pieceOf j w = some q → q.owner = .tag t → drainedBy f q = false
  else HeldOrAnswered t { e with notEnded := e.notEnded - 1 } w

/-- R34 to R36, R39: the piece `id` fails at request offset `f`: its request takes the outcome, the pieces that this
drops have ended, and the request's other pieces run on. -/
def PieceFailed (t : Tag) (e : Entry) (id : PieceId) (f : Nat) (c : Cause) (u w : State) : Prop :=
  FailureAtRequest t e id f c u w ∧ PiecesDropped t (some id) (failureDrops e f) u w ∧
    PiecesRunOn t (some id) (failureDrops e f) u w

/-- R24: a READ, WRITE or VERIFY that has been resolved and not answered. -/
def Resolved (e : Entry) : Prop := namesBlocks e.kind = true ∧ (e.state = .active ∨ e.state = .draining)

/-- R48: an event leaves an ACTIVE or DRAINING FLUSH with the entry `e`: it stays so, or it completes, when no port is
marked uncut or cut. -/
def FlushHeldOrAnswered (t : Tag) (e : Entry) (w : State) : Prop :=
  if ∀ x ∈ e.flPorts, x.2 ≠ .uncut ∧ x.2 ≠ .cut then
    match e.failure with
    | some (p, c) => Answered t .failed c 0 p w
    | none =>
      if ∀ x ∈ e.flPorts, x.2 = .done then Answered t .good .none 0 0 w else Answered t .cancelled .none 0 0 w
  else entryOf t w = some e

/-- R48: the entry `e` of a FLUSH once it cuts no further FL piece: its uncut ports, and the ports of its pieces that
`u` holds QUEUED, the piece `id` aside, are dropped, and those pieces have ended. -/
def flushStopped (t : Tag) (id : Option PieceId) (u : State) (e : Entry) : Entry :=
  let leaves := fun j => some j ≠ id && (pieceOf j u).any fun q => q.owner = .tag t && q.state = .queued
  { e with
    notEnded := e.notEnded - allPieces.countP leaves
    flPorts := e.flPorts.map fun x =>
      if x.2 = .uncut ∨ allPieces.any (fun j => leaves j && (pieceOf j u).any (·.port = x.1)) then (x.1, .dropped)
      else x }

/-- R48: the entry `e` of a FLUSH that takes the outcome FAILED of its piece `id` on a port: the first failure sets the
failure point and stops the FLUSH, a later one only marks its port. -/
def flushFailed (t : Tag) (id : Option PieceId) (p : PortId) (c : Cause) (u : State) (e : Entry) : Entry :=
  let marked := { e with flPorts := e.flPorts.map fun x => if x.1 = p then (x.1, .failed) else x }
  if e.failure = none then flushStopped t id u { marked with state := .draining, failure := some (p.val, c) }
  else marked

/-- R48: the pieces that the first failure of a FLUSH drops: those still QUEUED. -/
def flushDrops (e : Entry) (r : Piece) : Bool := e.failure.isNone && r.state = .queued

/-- R48: the piece `id` of a FLUSH fails: the FLUSH takes the outcome, the pieces that this drops have ended, and its
other pieces run on. -/
def FlushPieceFailed (t : Tag) (e : Entry) (id : PieceId) (p : PortId) (c : Cause) (u w : State) : Prop :=
  FlushHeldOrAnswered t (flushFailed t (some id) p c u { e with notEnded := e.notEnded - 1 }) w ∧
    PiecesDropped t (some id) (flushDrops e) u w ∧ PiecesRunOn t (some id) (flushDrops e) u w

/-- R80, R81, R93, R109: the exit of port `p` from READY that follows the end of the piece `id` ends no other piece of
the request under `t`: it has none in SHADOW_WAIT (and no CP piece, which belongs to a move), and in the queue of `p`
only such as `spared` names (those that the end of `id` has dropped); and the request is neither the MOVE of the active
move nor the pending PORT OFFLINE. -/
def ExitSpares (t : Tag) (id : PieceId) (p : PortId) (spared : Piece → Bool) (u : State) : Prop :=
  (∀ m, u.mve = some m → m.tag ≠ t) ∧ (portOf p u).offlinePending ≠ .yes (some t) ∧
  ∀ j r, j ≠ id → pieceOf j u = some r → r.owner = .tag t →
    r.kind ≠ .cp ∧ r.state ≠ .shadowWait ∧ j ∉ u.psc.waiting ∧ (j ∈ queueOf p u → spared r = true)

/-- R54: the lowest-numbered free piece record. -/
def LowestFree (id : PieceId) (u : State) : Prop := pieceOf id u = none ∧ ∀ j, j < id → pieceOf j u ≠ none

/-- R57: a port on which a piece just cut joins the queue. -/
def inService (p : PortId) (u : State) : Prop := (portOf p u).state ≠ .down ∧ (portOf p u).state ≠ .offline

/-- R57, R80, R81: the cause that a port out of service gives. -/
def serviceCause (p : PortId) (u : State) : Cause := if (portOf p u).state = .down then .portDown else .portOffline


/-! ### Grants (R63, R175) -/

/-- R175: a recorded grant is the one that covers an offset of its tag. -/
def OnlyCover (g : Grant) (off : Nat) (u : State) : Prop :=
  g ∈ u.ulc.grants ∧ g.first ≤ off ∧ off < g.first + g.count ∧
    ∀ g' ∈ u.ulc.grants, g'.tag = g.tag → g'.first ≤ off → off < g'.first + g'.count → g' = g

/-- R65: `u` with LINK set. -/
def linkNoted (u : State) : State := u.setMgu { u.mgu with flags := { u.mgu.flags with link := true } }

/-- R82, R91: `u` with PORT set. -/
def portNoted (u : State) : State := u.setMgu { u.mgu with flags := { u.mgu.flags with port := true } }

/-! ### Ports (R78 to R94) -/

/-- R83: a port that has started a probe in a state, its fault count and capacity kept. -/
def probing (st : PortState) (x : Port) : Port :=
  { x with state := st, outstanding := some .inquiry, received := [], pieceTimer := none, probeTimer := true,
           mrst := false }

/-- R81: a port that has entered OFFLINE, its fault count and capacity kept. -/
def offline (x : Port) : Port :=
  { x with state := .offline, outstanding := none, received := [], pieceTimer := none, probeTimer := false,
           offlinePending := .no, mrst := true }

/-- R80: a port that has entered DOWN, its fault count and capacity kept. -/
def unplugged (x : Port) : Port :=
  { x with state := .down, outstanding := none, received := [], pieceTimer := none, probeTimer := false, mrst := false }

/-- R74, R83: what a probe sends on a media port. -/
def probeFrames (p : PortId) : List (PortId × MediaOut) := [(p, .pulse), (p, .inquiry 0 1)]

/-- R80, R81, R93: between `u` and `w` port `p` has left service as `x`: PORT is set, every piece of its queue has
ended, the other ports are as they were, a pending PORT OFFLINE has been answered, and a move from or to a port that was
READY is over. -/
def OutOfService (p : PortId) (x : Port) (u w : State) : Prop :=
  portOf p w = x ∧ (∀ q, q ≠ p → portOf q w = portOf q u) ∧ w.mgu.flags = { u.mgu.flags with port := true } ∧
  (∀ id ∈ queueOf p u, pieceOf id w = none) ∧ w.svm = u.svm ∧ w.mst = u.mst ∧
  ((portOf p u).state = .ready → ∀ m, u.mve = some m → m.srcPort = p ∨ m.dstPort = p → w.mve = none) ∧
  (∀ t, x.state = .offline → (portOf p u).offlinePending = .yes (some t) →
    Answered t .good .none 0 p.val w ∧ w.mgu.exec = .idle)

/-! ### Aborts of a move (R71, R109 to R111) -/

/-- R70, R105: a piece in SHADOW_WAIT that an abort of `m` at `u` ends. -/
def waitsForMove (m : Move) (t : Tag) (u : State) (j : PieceId) : Bool :=
  (j ∈ m.shadows || j ∈ u.psc.waiting) &&
    (pieceOf j u).any fun q => q.owner = .tag t && q.kind ≠ .cp && q.state = .shadowWait

/-- R71, R110, R111: between `u` and `w` an abort of the move `m` has acted on its pieces. Of those that `piece` names,
a CP piece QUEUED is dropped, one at media on the source is detached without its shadow part, one in SHADOW is detached;
a WR piece in SHADOW runs on, one in SHADOW_WAIT ends, and any other loses its shadow part and keeps its owner. A
request that `tag` names takes DONE of its pieces in SHADOW_WAIT, and completes when it had no other. (The names leave
out what the same event ends by itself.) -/
def ShadowsReleased (m : Move) (piece : PieceId → Piece → Prop) (tag : Tag → Prop) (u w : State) : Prop :=
  (∀ id q, pieceOf id u = some q → id ∈ m.shadows ∨ id ∈ u.psc.waiting → piece id q →
    (q.kind = .cp →
      (q.state = .queued → PieceGone id q w) ∧
      (q.state = .shadow → pieceOf id w = some { q with owner := .discard }) ∧
      (q.state ≠ .queued → q.state ≠ .shadow → pieceOf id w = some { q with owner := .discard, shadow := none })) ∧
    (q.kind ≠ .cp →
      (q.state = .shadow → pieceOf id w = some q) ∧
      (q.state = .shadowWait → PieceGone id q w) ∧
      (q.state ≠ .shadow → q.state ≠ .shadowWait → pieceOf id w = some { q with shadow := none }))) ∧
  (∀ t e, tag t → t ≠ m.tag → entryOf t u = some e → Resolved e →
    let ended := allPieces.filter (waitsForMove m t u)
    let taken := ended.flatMap fun j => ((pieceOf j u).map fun q => (List.range q.count).map (q.offset + ·)).getD []
    let done := { e with done := e.done ++ taken }
    (∀ e', entryOf t w = some e' →
      e'.notEnded = e.notEnded - ended.length ∧ ∀ x, x ∈ e'.done ↔ x ∈ e.done ∨ x ∈ taken) ∧
    (ended.length < e.notEnded → (entryOf t w).isSome) ∧
    (ended ≠ [] → e.notEnded = ended.length → cuttable e = false →
      Answered t (outcomeAt done).1 (outcomeAt done).2.1 (outcomeAt done).2.2.1 (outcomeAt done).2.2.2 w))

/-- R71, R110: an abort that no other end of its event accompanies touches the pieces of the move alone. -/
def AbortAlone (m : Move) (u w : State) : Prop :=
  ShadowsReleased m (fun _ _ => True) (fun _ => True) u w ∧
  ∀ id, id ∉ m.shadows → id ∉ u.psc.waiting → pieceOf id w = pieceOf id u

/-- R110: between `u` and `w` a move that was active has been aborted: the context is IDLE, the extent is NORMAL at its
source with the generation as it was, the pieces of the move are released, and the MOVE request has been answered FAILED
with a cause and the cursor. With no move active nothing of the traffic has changed. -/
def MoveFails (c : Cause) (u w : State) : Prop :=
  w.mve = none ∧
  w.xmp.generation = u.xmp.generation ∧ w.xmp.staging = u.xmp.staging ∧ w.xmp.stagingOpen = u.xmp.stagingOpen ∧
  match u.mve with
  | none => w.xmp.active = u.xmp.active ∧ w.psc = u.psc ∧ w.spa = u.spa
  | some m =>
    w.xmp.active = settleMap u.xmp.active ∧ entryOf m.tag w = none ∧
      .cmpl (completionOf m.tag .failed c 0 m.cursor w) false ∈ w.ulc.tx ∧ AbortAlone m u w

/-- R148, R151, R153: between `u` and `w` a supervision failure has been taken by the LAPSE of `u`. MODEL'S CHOICE (log
6): the timer that stops keeps the length of its period. -/
def FailureTaken (u w : State) : Prop :=
  attention w = true ∧ w.ports = u.ports ∧ w.out = u.out ∧ w.pins = u.pins ∧ w.mst = u.mst ∧ w.draws = u.draws ∧
  w.pending = u.pending ∧
  if u.svm.lapse then
    w.svm = { u.svm with
      partState := .fenced, timer := .stopped, causes := { u.svm.causes with supervision := true } } ∧
    w.mgu = { u.mgu with flags := { u.mgu.flags with fence := true } } ∧
    MoveFails .fenced u w
  else
    w.svm = { periodStarts u.mgu.settings u.svm with lapse := true } ∧ w.mgu = u.mgu ∧ w.xmp = u.xmp ∧
    w.psc = u.psc ∧ w.spa = u.spa ∧ moveBody w.mve = moveBody u.mve

/-- R103, R105, R109: the LBA that an abort of `m` names when the piece `id` fails at index `k`, if it is a piece of the
move: the CP piece, or a WR piece in its destination phase (log 18). -/
def failingLba (m : Move) (id : PieceId) (k : Nat) (u : State) : Option Nat :=
  match pieceOf id u with
  | none => none
  | some q =>
    match q.shadow with
    | none => none
    | some sh =>
      if id ∈ m.shadows ∧ (q.state = .shadow ∨ q.owner = .move) then some (m.lstart + (sh.start + k - m.dstStart))
      else none

/-- R109: the abort of `m` at a port's exit is answered: with the first piece of the move that fails, among `ids` in
their order and with the cause `queued`, or with the exit's own cause and the cursor. The extent stays at its source. -/
def ExitAnswered (m : Move) (ids : List PieceId) (queued exit : Cause) (cursor : Nat) (u w : State) : Prop :=
  w.mve = none ∧ w.xmp = { u.xmp with active := settleMap u.xmp.active } ∧
  match ids.findSome? fun j => failingLba m j 0 u with
  | some lba => Answered m.tag .failed queued 0 lba w
  | none => Answered m.tag .failed exit 0 cursor w

/-- R80: the failure of the queue of port `p` ends no piece of the request under `t` but such as report DONE. -/
def queueSpares (t : Tag) (p : PortId) (u : State) : Prop :=
  ∀ j r, pieceOf j u = some r → r.owner = .tag t → j ∈ queueOf p u → r.kind ≠ .cp ∧ r.state = .shadow

/-- R80 to R82, R109: what the exit of port `p` from READY does to a move from or to it: the pieces of the queue fail
with the cause `queued`, head first, and the MOVE is answered (log 7, log 18); its other pieces are released. -/
def ExitAborts (p : PortId) (queued exit : Cause) (u w : State) : Prop :=
  (portOf p u).state = .ready → ∀ m, u.mve = some m → m.srcPort = p ∨ m.dstPort = p →
    ExitAnswered m (queueOf p u) queued exit m.cursor u w ∧
    ShadowsReleased m (fun j r => j ∉ queueOf p u ∧ ∀ t, r.owner = .tag t → queueSpares t p u)
      (fun t => (∀ j r, pieceOf j u = some r → r.owner = .tag t → j ∉ queueOf p u) ∧
        (portOf p u).offlinePending ≠ .yes (some t)) u w

/-- R93, R106, R109: the end of the piece `q` at media and the exit of its port fall at one event, with the cursor of
the move at `cursor` after that end: the map shows whether the switch was taken first (log 25), which needs all its
conditions, or else `aborted` holds. -/
def SwitchedOr (m : Move) (q : Piece) (cursor : Nat) (aborted : Prop) (u w : State) : Prop :=
  (w.xmp.generation = u.xmp.generation → aborted) ∧
  (w.xmp.generation ≠ u.xmp.generation →
    cursor = m.length ∧ u.mst.op = .idle ∧ (∀ t ∈ m.dual, q.owner = .tag t ∧ entryOf t w = none) ∧
      w.xmp.generation = u.xmp.generation + 1 ∧ w.mve = none ∧ Answered m.tag .good .none 0 0 w)

/-- R65, R72, R80, R81: between `u` and `w` the pieces in the queue of port `p` that `piece` names have ended with the
cause `c` at index 0: their records are free, their slots released and their grants withdrawn. A request that `tag`
names has taken the outcome: its failure point is at or below the piece, or, of a WR piece in its destination phase,
DONE. Where no other end of the event reaches the request, that outcome is all. -/
def QueueFails (p : PortId) (c : Cause) (piece : PieceId → Prop) (tag : Tag → Prop) (u w : State) : Prop :=
  ∀ id q, id ∈ queueOf p u → pieceOf id u = some q → piece id →
    PieceGone id q w ∧
    GrantsWithdrawn id q u w ∧
    ∀ t e, q.owner = .tag t → q.kind ≠ .cp → q.state ≠ .shadowWait → id ∉ u.psc.waiting → tag t → entryOf t u = some e →
      let first := (queueOf p u).find? (fun j => (pieceOf j u).any (·.owner = .tag t)) = some id
      (Resolved e → ∀ e', entryOf t w = some e' →
        (q.state ≠ .shadow → (∃ f cause, e'.failure = some (f, cause) ∧ f ≤ q.offset) ∧
          PiecesDropped t (some id) (failureDrops e q.offset) u w) ∧
        (q.state = .shadow → ∀ i, i < q.count → q.offset + i ∈ e'.done)) ∧
      (Resolved e → e.waitSet = [] → q.state ≠ .shadow → first →
        ExitSpares t id p (failureDrops e q.offset) u →
        PieceFailed t e id q.offset c u w) ∧
      (Resolved e → e.waitSet = [] → q.state = .shadow → ExitSpares t id p (fun _ => false) u →
        PieceDone t e q w) ∧
      (e.kind = .flush → e.state = .active ∨ e.state = .draining → e.waitSet = [] → q.kind = .fl → q.state ≠ .shadow →
        ExitSpares t id p (fun _ => false) u →
        FlushPieceFailed t e id q.port c u w)

/-! ### Good statuses (R66, R68, R70) -/

/-- R66, R68, R70: a good status at port `p` is the last that the piece `q` waits for: the piece ends DONE. -/
def LastStatus (p : PortId) (op : MediaOp) (dest : Bool) (q : Piece) : Prop :=
  dest = false ∧ q.port = p ∧ q.shadow = none ∧
    (q.kind = .vf ∧ op = .vf ∨ q.kind = .fl ∧ op = .fl ∨ q.kind = .wr ∧ (op = .wr ∧ q.verify = false ∨ op = .vf)) ∨
  dest = true ∧ (q.kind = .wr ∨ q.kind = .cp) ∧ (∃ sh, q.shadow = some sh ∧ sh.port = p) ∧
    (op = .wr ∧ q.verify = false ∨ op = .vf)

/-- R66, R70: a good status ends the source phase of a piece that has a shadow part. -/
def SourceOver (op : MediaOp) (dest : Bool) (q : Piece) : Prop :=
  dest = false ∧ (q.kind = .cp ∧ op = .rd ∨ q.kind = .wr ∧ (op = .wr ∧ q.verify = false ∨ op = .vf))

/-- R70: a WR piece with after-chunk YES waits for the chunk in flight, which covers one of its blocks. -/
def WaitsForChunk (q : Piece) (sh : Shadow) (u : State) : Prop :=
  q.kind = .wr ∧ sh.afterChunk = true ∧ ∃ m ch, u.mve = some m ∧ m.chunk = some ch ∧
    m.dstStart + m.cursor < sh.start + q.count ∧ sh.start < m.dstStart + m.cursor + ch.count

/-- R93: what the good status of the command outstanding at port `p` does to its piece `q` when the port then enters
OFFLINE in the same event: the status is taken first. The completions of the event carry the generation of `u`
(log 19). -/
def TakenBeforeOffline (p : PortId) (id : PieceId) (op : MediaOp) (dest : Bool) (q : Piece) (u w : State) : Prop :=
  let v := w.setXmp u.xmp
  let alone := fun t => ExitSpares t id p (fun _ => false) u
  -- a request's piece ends DONE and keeps its place in the done set, whatever the exit then ends
  (∀ t e, q.owner = .tag t → entryOf t u = some e → Resolved e → LastStatus p op dest q →
    (portOf p w).faults = 0 ∧ PieceGone id q w ∧
      ∀ e', entryOf t w = some e' → ∀ i, i < q.count → q.offset + i ∈ e'.done) ∧
  -- where the exit ends no other piece of the request, that outcome is all: DONE, DROPPED above the failure point, or
  -- the end of an FL piece or of the wait for the chunk
  (∀ t e, q.owner = .tag t → entryOf t u = some e → e.waitSet = [] → alone t →
    (Resolved e → LastStatus p op dest q → PieceDone t e q v) ∧
    (∀ f c, Resolved e → op = .rd → q.kind = .rd → e.failure = some (f, c) → f ≤ q.offset →
      PieceGone id q w ∧ HeldOrAnswered t { e with notEnded := e.notEnded - 1 } v) ∧
    (e.kind = .flush → e.state = .active ∨ e.state = .draining → dest = false → q.port = p → q.kind = .fl → op = .fl →
      (portOf p w).faults = 0 ∧ PieceGone id q w ∧ FlushHeldOrAnswered t { e with
        notEnded := e.notEnded - 1, flPorts := e.flPorts.map fun y => if y.1 = p then (y.1, .done) else y } v) ∧
    (∀ m sh, Resolved e → SourceOver op dest q → q.shadow = some sh → WaitsForChunk q sh u → u.mve = some m →
      m.srcPort = p → m.cursor ≠ m.length → PieceGone id q w ∧ PieceDone t e q v)) ∧
  -- a read goes to DELIVERING
  (∀ k ks t, op = .rd → q.kind = .rd → q.slots = k :: ks → q.owner = .tag t → q.shadow = none → alone t →
    (∀ e f c, entryOf t u = some e → e.failure = some (f, c) → q.offset < f) →
    pieceOf id w = some { q with state := .delivering } ∧
      .readData id t (q.offset + (q.count - (ks.length + 1))) u.spa.slots[k] ∈ w.ulc.tx) ∧
  -- a write that would now send its verify fails with the queue
  (∀ t e, q.owner = .tag t → entryOf t u = some e → Resolved e → e.waitSet = [] → op = .wr → q.verify = true →
    q.state ≠ .shadow → (queueOf p u).head? = some id →
    ExitSpares t id p (failureDrops e q.offset) u →
    PieceGone id q w ∧ PieceFailed t e id q.offset .portOffline u w) ∧
  -- the rest of the queue fails
  QueueFails p .portOffline (fun j => j ≠ id) (fun t => q.owner ≠ .tag t) u w ∧
  -- a piece goes on to another port; a copy piece is detached when the exit aborts its move (R111)
  (∀ sh, SourceOver op dest q → q.shadow = some sh → ¬WaitsForChunk q sh u → sh.port ≠ p → inService sh.port u →
    ∃ o, (o = q.owner ∨ o = .discard) ∧ id ∈ queueOf sh.port w ∧
      pieceOf id w = some { q with owner := o, state := .shadow, shadow := some { sh with state := .queued } }) ∧
  -- a move from or to the port is switched, or answered at the exit with the cursor that the status leaves (R109)
  (∀ m, u.mve = some m → m.srcPort = p ∨ m.dstPort = p →
    let copied := dest = true ∧ q.owner = .move ∧ (op = .wr ∧ q.verify = false ∨ op = .vf)
    let cursor := if copied then m.cursor + (m.chunk.map (·.count)).getD 0 else m.cursor
    (copied → u.psc.waiting = []) → (∀ sh, q.shadow = some sh → dest = false → sh.port ≠ p ∧ inService sh.port u) →
    SwitchedOr m q cursor (ExitAnswered m
      ((queueOf p u).filter fun j => j ≠ id || op = .wr && q.verify) .portOffline .portOffline cursor u w) u w) ∧
  -- a DISCARD piece ends DONE
  (q.owner = .discard → LastStatus p op dest q ∨ op = .rd ∧ q.port = p ∧ (q.kind = .rd ∨ q.kind = .cp ∧ q.shadow = none) →
    (portOf p w).faults = 0 ∧ PieceGone id q w)

/-! ### Extent records (R181) -/

/-- R181: the 16 bytes from byte `a` on hold an extent record, the upper four attribute bits 0. -/
def RecordAt (bs : List Byte) (a : Nat) (x : Extent) : Prop :=
  byteAt bs a = x.used ∧ byteAt bs (a + 1) = x.unit ∧ byteAt bs (a + 2) = x.port ∧
  (byteAt bs (a + 3)).toNat = x.policy.toNat + (if x.verify then 4 else 0) + (if x.moving then 8 else 0) ∧
  wordAt bs (a + 4) = x.lstart ∧ wordAt bs (a + 8) = x.length ∧ wordAt bs (a + 12) = x.pstart

/-! ### Writes under a move (R101) -/

/-- R101: a WRITE has an unfinished block over the chunk in flight that reaches the source alone. -/
def BlocksChunk (m : Move) (t : Tag) (s : State) : Prop :=
  ∃ e ch i g, entryOf t s = some e ∧ m.chunk = some ch ∧ i < ch.count ∧ e.kind = .write ∧ e.unit = m.unit ∧
    e.lba.toNat ≤ m.lstart + (m.cursor + i) ∧ g ∈ e.segments ∧
    let o := m.lstart + (m.cursor + i) - e.lba.toNat
    g.offset ≤ o ∧ o < g.offset + g.length ∧ (g.target = .single ∨ t ∉ m.dual) ∧
    (e.cancelTaken = false ∧ cutOffset e ≤ o ∧ o < cutLimit e ∨
      ∃ id q, pieceOf id s = some q ∧ q.owner = .tag t ∧ q.offset ≤ o ∧ o < q.offset + q.count)

/-! ### Start-up (R139) -/

/-- R95: a port right after a start-up. -/
def portAtStart (present : Bool) : Port := if present then probing .probing Port.reset else Port.reset

/-- R139: the values that each chapter gives for a start-up. -/
def Fresh (cause : StartCause) (s : State) : Prop :=
  (∀ t, entryOf t s = none) ∧ s.rqt.intake = [] ∧ s.rqt.mgmt = [] ∧ s.rqt.active = [] ∧ s.rqt.barrier = [] ∧
  s.rqt.flushing = [] ∧ freeSegments s = 96 ∧
  s.ulc.tx = [] ∧ s.ulc.grants = [] ∧ (∀ t : Tag, s.ulc.withdrawn[t] = []) ∧
  (∀ i : Fin 64, s.xmp.active[i] = Extent.empty ∧ s.xmp.staging[i] = Extent.empty) ∧ s.xmp.generation = 0 ∧
  s.xmp.stagingOpen = false ∧
  (∀ id, pieceOf id s = none) ∧ (∀ p, queueOf p s = []) ∧ s.psc.waiting = [] ∧
  s.spa.free = List.finRange 32 ∧ s.spa.pointer = 0 ∧ (∀ p : PortId, s.spa.passOver[p] = 0) ∧ s.spa.reserve = [] ∧
  (∀ p : PortId, portOf p s = portAtStart s.pins.presentLow[p]) ∧
  s.mve = none ∧
  s.mgu.exec = .idle ∧ s.mgu.executing = none ∧ (∀ i : Fin 2, s.mgu.buffer[i] = none) ∧
  s.mgu.settings = ⟨5, .off, 3⟩ ∧ s.mgu.startCause = cause ∧ s.mgu.flags = ⟨true, false, false, false, false⟩ ∧
  s.mst.op = .idle ∧ s.mst.reading = true ∧ s.mst.lock = false ∧ s.mst.storeState = .invalid ∧ s.mst.lastOp = none ∧
  s.svm.partState = .loading ∧ s.svm.timer = .stopped ∧ s.svm.lapse = false ∧
  s.svm.causes = ⟨false, s.pins.wpnLow⟩ ∧ s.pins.started = true

/-- R95, R127, R139: what a start-up keeps and sends: the store image stays, and the ports with a unit present send
their probes. -/
def StartKeeps (v t : State) : Prop :=
  t.pending = v.pending ∧ t.mst.header = v.mst.header ∧ t.mst.rows = v.mst.rows ∧ t.out.sent = v.out.sent ∧
  t.out.media = v.out.media ++ (allPorts.filter fun p => v.pins.presentLow[p]).flatMap probeFrames ∧
  t.spa.slots = v.spa.slots ∧ t.draws = v.draws ∧ t.pins.presentLow = v.pins.presentLow ∧ t.pins.wpnLow = v.pins.wpnLow

/-- R137: a header or row after a write that was cut off or ended bad: the old content, the new, or a bad check word. -/
def LeftUnknown {n : Nat} (good : Vector Byte n → Bool) (old new x : Vector Byte n) : Prop :=
  x = old ∨ x = new ∨ good x = false

/-! ### Maps -/

/-- R121: record `i` of a table fails a test against itself or the records with lower indexes. -/
def RecordFails (m : ExtMap) (i : Fin 64) : Prop :=
  let e := m[i]
  -- field codes
  (e.used ≠ 0 ∧ e.used ≠ 1) ∨
  (e.used = 1 ∧ (3 < e.unit.toNat ∨ 3 < e.port.toNat ∨ e.length = 0 ∨ e.policy = 3)) ∨
  -- contiguity
  (e.used = 1 ∧ ∃ j : Fin 64, j < i ∧ m[j].used = 0) ∨
  -- ends
  (e.used = 1 ∧ (4294967295 < e.lstart.toNat + e.length.toNat - 1 ∨ 4294967295 < e.pstart.toNat + e.length.toNat - 1)) ∨
  -- order and logical overlap, against the record before
  (e.used = 1 ∧ ∃ j : Fin 64, j.val + 1 = i.val ∧
    (¬(m[j].unit.toNat < e.unit.toNat ∨ m[j].unit = e.unit ∧ m[j].lstart.toNat < e.lstart.toNat) ∨
      m[j].unit = e.unit ∧ e.lstart.toNat ≤ m[j].lstart.toNat + m[j].length.toNat - 1)) ∨
  -- physical overlap
  (e.used = 1 ∧ ∃ j : Fin 64, j < i ∧ m[j].used = 1 ∧ m[j].port = e.port ∧
    m[j].pstart.toNat < e.pstart.toNat + e.length.toNat ∧ e.pstart.toNat < m[j].pstart.toNat + m[j].length.toNat)

/-! ### Invariants -/

/-- R83, R91: the fault count of a port is at most 4, a port at 4 is OFFLINE, and a probe is outstanding or timed only
in PROBING or RECOVERING. -/
def Port.Sound (x : Port) : Prop :=
  x.faults ≤ Config.faultLimit ∧
  (x.faults = Config.faultLimit → x.state = .offline) ∧
  (x.outstanding = some .inquiry ∨ x.probeTimer = true → x.state = .probing ∨ x.state = .recovering)

/-- R91: every port is sound. -/
def PortsSound (s : State) : Prop := ∀ p : PortId, (portOf p s).Sound

/-- R140, R145, R152: the supervision timer runs exactly while the part is RUN with a mode other than OFF, in a phase
of that mode; a part in RUN holds no fence cause and a FENCED part holds one; the start-up read runs only while the part
is LOADING, and no store operation runs beside it. -/
def SupervisionSound (s : State) : Prop :=
  (s.svm.timer = .stopped ↔ ¬(s.svm.partState = .run ∧ s.mgu.settings.mode ≠ .off)) ∧
  (s.svm.timer = .full → s.mgu.settings.mode = .timeout) ∧
  (s.svm.timer = .first ∨ s.svm.timer = .second → s.mgu.settings.mode = .window) ∧
  (s.svm.partState = .run → anyCause s.svm.causes = false) ∧
  (s.svm.partState = .fenced → anyCause s.svm.causes = true) ∧
  (s.mst.reading = true → s.svm.partState = .loading ∧ s.mst.op = .idle)

/-- R115: while staging is CLOSED every staging record is empty. -/
def StagingSound (s : State) : Prop := s.xmp.stagingOpen = false → s.xmp.staging = ExtMap.empty

end Sys2Proof.Machine
end

