-- ==== Sys2Proof/Certificates/Slice0/Obligations.lean ====
section
/-! DEFINITION. The statements for the provers. `u` is the part as the event finds it (`StandsAt`), `w` the part as the
command leaves it, before the heads of the ports are taken (`finish`, R59 and R101: Obligations.FinishFootprint says what
that may change). -/

open Sys2Proof Sys2Proof.Machine

/-! ### The queue, the step, the start -/

/-- MODEL'S CHOICE (log 9, log 10): the events of the part stand in one queue of commands. A step takes the command at
the front and is its meaning on the rest, and no command stops the part; on an empty queue the part idles. A part with
no step due stands where it is when the next event reaches it. -/
def Obligations.StepTakesFront : Prop :=
  ∀ s : State,
    (∀ (c : Instr) (rest : List Instr), step (s.setPending (c :: rest)) = exec c (s.setPending rest) ∧
      ∃ t, exec c s = .next t) ∧
    (s.pending = [] → step s = .next s) ∧
    (running s = true → dueStep s = none → StandsAt s s)

/-- R41, R169: the attention bit, which a CMPL carries as the event that sends it finds it, is set exactly when some
change flag or LAPSE is set. ATTN has that level while the part runs; it is released while RESETn is asserted. DEDUCED
(log 15): the level is computed from what is stored, and ATTN is released without power. -/
def Obligations.AttentionFollowsFlags : Prop :=
  ∀ s : State,
    let f := s.mgu.flags
    (attention s = true ↔
      (f.start = true ∨ f.port = true ∨ f.store = true ∨ f.link = true ∨ f.fence = true) ∨ s.svm.lapse = true) ∧
    (attnPin s = true ↔ attention s = true ∧ s.pins.resetLow = false ∧ s.pins.powered = true) ∧
    (∀ t o c remaining detail, (completionOf t o c remaining detail s).attention = attention s)

/-- R139: while RESETn is asserted no event is taken and no frame is sent; a pin keeps its level for the start-up. -/
def Obligations.HeldInResetTakesNothing : Prop :=
  ∀ (c : Instr) (s : State), s.pins.resetLow = true →
    (movesLine c = false → exec c s = .next s) ∧
    (c = .wpnAsserted → exec c s = .next (s.setPins { s.pins with wpnLow := true })) ∧
    (c = .wpnReleased → exec c s = .next (s.setPins { s.pins with wpnLow := false })) ∧
    (∀ p, c = .presentnAsserted p →
      exec c s = .next (s.setPins { s.pins with presentLow := s.pins.presentLow.set p true })) ∧
    (∀ p, c = .presentnReleased p →
      exec c s = .next (s.setPins { s.pins with presentLow := s.pins.presentLow.set p false }))

/-- The state after the first start-up holds the values of R139 and of the reset tables of each chapter, the lines as
log 6 takes them. -/
def Obligations.FreshStart : Prop :=
  Fresh .power State.reset ∧ attnPin State.reset = true ∧ State.reset.pending = [] ∧
    State.reset.pins = ⟨true, false, true, false, Vector.replicate 4 false⟩

/-! ### Requests at their arrival -/

/-- R25, R27, R159: a READ, WRITE or VERIFY that passes the arrival checks joins the tail of the intake queue. A
management request other than KEEPALIVE and PEEK waits at the tail of the management queue while MGU is not IDLE or the
part is LOADING. -/
def Obligations.RequestsJoinTheirQueues : Prop :=
  ∀ (s u : State), StandsAt s u →
    (∀ (t : Tag) (unit n : Byte) (lba : Word) (c : Instr) (k : Kind), entryOf t u = none →
      (c, k) ∈ [(Instr.read t unit n lba, Kind.read), (Instr.write t unit n lba, Kind.write),
        (Instr.verify t unit n lba, Kind.verify)] →
      unit.toNat ≤ 3 → lba.toNat + (if n = 0 then 256 else n.toNat) - 1 ≤ 4294967295 →
      exec c s = .next (finish (takeEntry t
        (freshEntry .queued k unit lba (if n = 0 then 256 else n.toNat) 0 0 0 [])
        (u.setRqt { u.rqt with intake := u.rqt.intake ++ [t] })))) ∧
    (∀ (c : Instr) (r : Request) (k : Kind), requestIn c = some r → kindOf r.code = some k → entryOf r.tag u = none →
      r.unit = 7 → k ∉ [.read, .write, .verify, .flush, .keepalive, .peek] →
      (u.mgu.exec ≠ .idle ∨ u.svm.partState = .loading) →
      exec c s = .next (finish (takeEntry r.tag (freshEntry .queued k 7 0 0 r.p0 r.p1 r.p2 [])
        (u.setRqt { u.rqt with mgmt := u.rqt.mgmt ++ [r.tag] }))))

/-- R46: a FLUSH enters BARRIER with the tags of the WRITE requests of its unit that have not completed. -/
def Obligations.FlushRecordsWaitSet : Prop :=
  ∀ (s u : State) (t : Tag) (unit : Byte), StandsAt s u → entryOf t u = none → unit.toNat ≤ 3 →
    ∃ waits : List Tag, waits.Nodup ∧
      (∀ t', t' ∈ waits ↔ ∃ e, entryOf t' u = some e ∧ e.kind = .write ∧ e.unit = unit) ∧
      exec (.flush t unit) s = .next (finish (takeEntry t (freshEntry .barrier .flush unit 0 0 0 0 0 waits)
        (u.setRqt { u.rqt with barrier := u.rqt.barrier ++ [t] })))

/-- R25, R26: a request under a tag that is not FREE is discarded and sets LINK; otherwise the three arrival checks are
made in their order, and a refused request is answered at once with its entry FREE. -/
def Obligations.ArrivalJudged : Prop :=
  ∀ (s u : State) (c : Instr) (r : Request), StandsAt s u → requestIn c = some r →
    ((entryOf r.tag u).isSome → exec c s = .next (finish (linkNoted u))) ∧
    (∀ (k : Kind) (cause : Cause), kindOf r.code = some k → entryOf r.tag u = none →
      let goodUnit := r.unit.toNat ≤ 3 ∨ r.unit = 7
      let dataKind := k = .read ∨ k = .write ∨ k = .verify ∨ k = .flush
      let blocks := if r.count = 0 then 256 else r.count.toNat
      (cause = .badUnit ∧ ¬goodUnit ∨
        cause = .badKind ∧ goodUnit ∧ (dataKind ↔ r.unit = 7) ∨
        cause = .badParam ∧ r.unit.toNat ≤ 3 ∧ (k = .read ∨ k = .write ∨ k = .verify) ∧
          4294967295 < r.lba.toNat + blocks - 1) →
      exec c s = .next (finish (u.setUlc { u.ulc with
        withdrawn := u.ulc.withdrawn.set r.tag []
        tx := u.ulc.tx ++ [.cmpl ⟨r.tag, .refused, cause, attention u, u.svm.partState,
          if k = .read ∨ k = .write ∨ k = .verify then blocks else 0, u.xmp.generation, 0⟩ false] })))

/-- R147: KEEPALIVE is answered at its arrival: a restart of the period with detail 0; no effect with detail 2; in FIRST
it is early, a supervision failure, with detail 1 and the part state and attention bit as the failure leaves them.
MODEL'S CHOICE: its CMPL is the last that this event hands over (log 7), and a timer that stops keeps the length of its
period (log 6). -/
def Obligations.KeepaliveJudged : Prop :=
  ∀ (s u : State) (t : Tag) (detail : Nat), StandsAt s u → entryOf t u = none →
    let mode := u.mgu.settings.mode
    let restarts := u.svm.partState = .run ∧ (mode = .timeout ∧ u.svm.timer = .full ∨ mode = .window ∧ u.svm.timer = .second)
    let ignored := u.svm.partState ≠ .run ∨ mode = .off
    (restarts ∧ detail = 0 ∨ ignored ∧ detail = 2 →
      exec (.keepalive t 7) s = .next (finish ((u.setUlc { u.ulc with
          withdrawn := u.ulc.withdrawn.set t []
          tx := u.ulc.tx ++ [.cmpl ⟨t, .good, .none, attention u, u.svm.partState, 0, u.xmp.generation,
            BitVec.ofNat 32 detail⟩ false] }).setSvm
        (if detail = 0 then periodStarts u.mgu.settings u.svm else u.svm)))) ∧
    (SupervisionSound u → u.svm.timer = .first →
      ∃ w, exec (.keepalive t 7) s = .next (finish w) ∧ FailureTaken u w ∧
        w.ulc.tx.getLast? = some (.cmpl ⟨t, .good, .none, true, w.svm.partState, 0, u.xmp.generation, 1⟩ false))

/-! ### Supervision -/

/-- R146: FIRST expires into SECOND, with no failure; FULL and SECOND expire as a supervision failure; a stopped timer
does not expire. MODEL'S CHOICE: nor does a timer that runs in another phase (log 11), and a timer that stops keeps the
length of its period (log 6). -/
def Obligations.ExpiriesAct : Prop :=
  ∀ (s u : State), StandsAt s u →
    (u.svm.timer = .first → exec .firstExpiry s = .next (finish (u.setSvm { u.svm with timer := .second }))) ∧
    (SupervisionSound u → u.svm.timer = .full → ∃ w, exec .fullExpiry s = .next (finish w) ∧ FailureTaken u w) ∧
    (SupervisionSound u → u.svm.timer = .second → ∃ w, exec .secondExpiry s = .next (finish w) ∧ FailureTaken u w) ∧
    (u.svm.timer ≠ .first → exec .firstExpiry s = .next (finish u)) ∧
    (u.svm.timer ≠ .full → exec .fullExpiry s = .next (finish u)) ∧
    (u.svm.timer ≠ .second → exec .secondExpiry s = .next (finish u))

/-- R148: every supervision failure is taken by LAPSE: CLEAR, it is SET and a fresh period starts; SET, the SUPERVISION
cause is added and the part enters FENCED, aborting an active move and releasing its pieces. MODEL'S CHOICE (log 6): the
timer that stops keeps the length of its period. -/
def Obligations.SupervisionFailure : Prop :=
  ∀ (s u : State) (c : Instr), StandsAt s u → SupervisionSound u → u.svm.partState = .run →
    u.mgu.settings.mode ≠ .off → FailsSupervision c u →
    ∃ w, exec c s = .next (finish w) ∧ FailureTaken u w

/-! ### Management requests that MGU takes at their arrival (R159, R160) -/

/-- R161, R163, R164: IDENTIFY fills block 0 of the buffer with the identify record of that moment and hands it over as
one DATA frame; STATUS empties the buffer and hands over one DATA frame whose record is not yet composed. Both leave MGU
in DATA_OUT and have no refusal. PEEK is answered at its arrival by the status record of that moment and its CMPL, in
every part state and every execution state, and clears nothing. -/
def Obligations.RecordRequestsTaken : Prop :=
  ∀ (s u : State) (t : Tag), StandsAt s u →
    (TakenAtOnce t u →
      let v := takeManagement t .identify 0 0 0 u
      exec (.identify t 7) s = .next (finish ((v.setMgu { v.mgu with
          exec := .dataOut, executing := some (t, .identify), buffer := #v[some (identifyRecord u), none] }).setUlc
        { v.ulc with tx := v.ulc.tx ++ [.mgmtData t 0 (identifyRecord u)] }))) ∧
    (TakenAtOnce t u →
      let v := takeManagement t .status 0 0 0 u
      exec (.status t 7) s = .next (finish ((v.setMgu { v.mgu with
          exec := .dataOut, executing := some (t, .status), buffer := #v[none, none] }).setUlc
        { v.ulc with tx := v.ulc.tx ++ [.statusData t] }))) ∧
    (entryOf t u = none → exec (.peek t 7) s = .next (finish (u.setUlc { u.ulc with
      withdrawn := u.ulc.withdrawn.set t []
      tx := u.ulc.tx ++ [.peekData t (statusRecord u),
        .cmpl ⟨t, .good, .none, attention u, u.svm.partState, 0, u.xmp.generation, 0⟩ false] })))

/-- R150, R165: SETUP is refused BAD_PARAM for a code that names no value; SUPERVISED, with a supervision failure, when
it would retime a running supervision; otherwise it sets the three settings, and a mode turned on in RUN starts a fresh
period. MODEL'S CHOICE: the CMPL of a SETUP refused SUPERVISED is the last that its event hands over (log 7), and a
timer that stops keeps the length of its period (log 6). -/
def Obligations.SetupJudged : Prop :=
  ∀ (s u : State) (t : Tag) (a b c : Word), StandsAt s u → SupervisionSound u → TakenAtOnce t u →
    ((∀ set, ¬NamesSettings a b c set) →
      ∃ w, exec (.setup t 7 a b c) s = .next (finish w) ∧ Answers t .refused .badParam 0 0 u w ∧ SameMedia u w ∧
        SameManagement u w) ∧
    (∀ set, NamesSettings a b c set →
      let held := u.mgu.settings
      let supervised := u.svm.partState = .run ∧ held.mode ≠ .off ∧
        (set.mode ≠ held.mode ∨ set.periodCode ≠ held.periodCode)
      (supervised → ∃ w, exec (.setup t 7 a b c) s = .next (finish w) ∧ FailureTaken u w ∧ entryOf t w = none ∧
        (handed w).getLast? =
          some (.cmpl ⟨t, .refused, .supervised, true, w.svm.partState, 0, u.xmp.generation, 0⟩ false)) ∧
      (¬supervised → ∃ w, exec (.setup t 7 a b c) s = .next (finish w) ∧ Answers t .good .none 0 0 u w ∧
        SameMedia u w ∧ w.xmp = u.xmp ∧ w.mst = u.mst ∧ w.mgu = { u.mgu with settings := set } ∧
        w.svm = if u.svm.partState = .run ∧ held.mode = .off ∧ set.mode ≠ .off then periodStarts set u.svm
          else u.svm))

/-- R155, R154: UNFENCE removes the SUPERVISION cause and clears LAPSE; a FENCED part with no cause left enters RUN with
a fresh period; it is answered GOOD with detail 1 while PIN remains. -/
def Obligations.UnfenceTaken : Prop :=
  ∀ (s u : State) (t : Tag), StandsAt s u → SupervisionSound u → TakenAtOnce t u →
    let freed := u.svm.partState = .fenced ∧ u.svm.causes.pin = false
    ∃ w, exec (.unfence t 7) s = .next (finish w) ∧
      Answers t .good .none 0 (if u.svm.causes.pin then 1 else 0) u w ∧ SameMedia u w ∧
      w.xmp = u.xmp ∧ w.mst = u.mst ∧
      w.mgu = { u.mgu with flags := { u.mgu.flags with fence := u.mgu.flags.fence || u.svm.causes.supervision } } ∧
      w.svm = { (if freed ∧ u.mgu.settings.mode ≠ .off then periodStarts u.mgu.settings u.svm else u.svm) with
        partState := if freed then .run else u.svm.partState
        lapse := false
        causes := ⟨false, u.svm.causes.pin⟩ }

/-- R116, R124: MAP OPEN is refused LOCKED with the lock set; otherwise it copies the active map, every move state
NORMAL, into staging, opens it, and answers with the number of used records. MAP DISCARD is never refused: it empties
and closes an OPEN staging and leaves a CLOSED one. -/
def Obligations.StagingOpenedAndDiscarded : Prop :=
  ∀ (s u : State) (t : Tag), StandsAt s u → TakenAtOnce t u →
    (u.mst.lock = true → ∃ w, exec (.mapOpen t 7) s = .next (finish w) ∧ Answers t .refused .locked 0 0 u w ∧
      SameMedia u w ∧ SameManagement u w) ∧
    (u.mst.lock = false → ∃ w, exec (.mapOpen t 7) s = .next (finish w) ∧
      Answers t .good .none 0 (u.xmp.active.toList.countP fun e => e.used = 1) u w ∧ SameMedia u w ∧
      w.mgu = u.mgu ∧ w.mst = u.mst ∧ w.svm = u.svm ∧ w.xmp.active = u.xmp.active ∧
      w.xmp.generation = u.xmp.generation ∧ w.xmp.stagingOpen = true ∧
      ∀ i : Fin 64, w.xmp.staging[i] = { u.xmp.active[i] with moving := false }) ∧
    (∃ w, exec (.mapDiscard t 7) s = .next (finish w) ∧ Answers t .good .none 0 0 u w ∧ SameMedia u w ∧
      w.mgu = u.mgu ∧ w.mst = u.mst ∧ w.svm = u.svm ∧
      (u.xmp.stagingOpen = true → w.xmp = { u.xmp with staging := ExtMap.empty, stagingOpen := false }) ∧
      (u.xmp.stagingOpen = false → w.xmp = u.xmp))

/-- R117: MAP STAGE is refused LOCKED, NOT_OPEN or BAD_PARAM, in this order; otherwise its grant of 1 or 2 blocks for
the buffer is recorded and sent and MGU is in DATA_IN. -/
def Obligations.MapStageTaken : Prop :=
  ∀ (s u : State) (t : Tag) (first count : Word), StandsAt s u → TakenAtOnce t u →
    let window := 0 < count.toNat ∧ count.toNat ≤ 64 ∧ first.toNat ≤ 63 ∧ first.toNat + count.toNat ≤ 64
    (∀ cause,
      (u.mst.lock = true ∧ cause = .locked ∨
        u.mst.lock = false ∧ u.xmp.stagingOpen = false ∧ cause = .notOpen ∨
        u.mst.lock = false ∧ u.xmp.stagingOpen = true ∧ ¬window ∧ cause = .badParam) →
      ∃ w, exec (.mapStage t 7 first count) s = .next (finish w) ∧ Answers t .refused cause 0 0 u w ∧ SameMedia u w ∧
        SameManagement u w) ∧
    (u.mst.lock = false → u.xmp.stagingOpen = true → window →
      let v := takeManagement t .mapStage first count 0 u
      let blocks := if count.toNat ≤ 32 then 1 else 2
      exec (.mapStage t 7 first count) s = .next (finish ((v.setMgu { v.mgu with
          exec := .dataIn, executing := some (t, .mapStage), buffer := #v[none, none] }).setUlc
        { v.ulc with
          grants := v.ulc.grants ++ [⟨t, 0, blocks, .buffer⟩]
          tx := v.ulc.tx ++ [.grant t 0 blocks] })))

/-- R120, R122: MAP COMMIT is refused by the first check that matches; otherwise staging becomes the active map, the
generation rises, staging is CLOSED, and a BARE part enters RUN with a fresh period, or FENCED with a cause present. -/
def Obligations.MapCommitTaken : Prop :=
  ∀ (s u : State) (t : Tag), StandsAt s u → SupervisionSound u → TakenAtOnce t u →
    (∀ cause detail,
      (u.mst.lock = true ∧ cause = .locked ∧ detail = 0 ∨
        u.mst.lock = false ∧ (u.svm.partState = .fenced ∧ cause = .fenced ∧ detail = 0 ∨
        u.svm.partState ≠ .fenced ∧ (u.xmp.stagingOpen = false ∧ cause = .notOpen ∧ detail = 0 ∨
        u.xmp.stagingOpen = true ∧ (u.mve.isSome ∧ cause = .moveActive ∧ detail = 0 ∨
        u.mve = none ∧ (u.mst.op ≠ .idle ∧ cause = .saveActive ∧ detail = 0 ∨
        u.mst.op = .idle ∧ cause = .invalidMap ∧ firstBadIndex u.xmp.staging = some detail))))) →
      ∃ w, exec (.mapCommit t 7) s = .next (finish w) ∧ Answers t .refused cause 0 detail u w ∧ SameMedia u w ∧
        SameManagement u w) ∧
    (u.mst.lock = false → u.svm.partState ≠ .fenced → u.xmp.stagingOpen = true → u.mve = none → u.mst.op = .idle →
      firstBadIndex u.xmp.staging = none →
      let anyCause := u.svm.causes.supervision = true ∨ u.svm.causes.pin = true
      ∃ w, exec (.mapCommit t 7) s = .next (finish w) ∧
        Answers t .good .none 0 (w.xmp.active.toList.countP fun e => e.used = 1) u w ∧ SameMedia u w ∧
        w.mst = u.mst ∧ w.xmp.generation = u.xmp.generation + 1 ∧ w.xmp.stagingOpen = false ∧
        (∀ i : Fin 64, w.xmp.active[i] = { u.xmp.staging[i] with moving := false } ∧
          w.xmp.staging[i] = Extent.empty) ∧
        (u.svm.partState = .run → w.svm = u.svm ∧ w.mgu = u.mgu) ∧
        (u.svm.partState = .bare → anyCause → w.svm = { u.svm with partState := .fenced } ∧
          w.mgu = { u.mgu with flags := { u.mgu.flags with fence := true } }) ∧
        (u.svm.partState = .bare → ¬anyCause → w.mgu = u.mgu ∧
          w.svm = { (if u.mgu.settings.mode = .off then u.svm else periodStarts u.mgu.settings u.svm) with
            partState := .run }))

/-- R121: the first bad index of a table is the lowest index whose record fails a test against itself or the records
below it. -/
def Obligations.FirstBadIndexIsLowest : Prop :=
  ∀ (m : ExtMap),
    (∀ i, firstBadIndex m = some i ↔
      ∃ h : i < 64, RecordFails m ⟨i, h⟩ ∧ ∀ j : Fin 64, j.val < i → ¬RecordFails m j) ∧
    (firstBadIndex m = none ↔ ∀ j : Fin 64, ¬RecordFails m j)

/-- R125, R181: MAP READ is refused BAD_PARAM, NOT_OPEN or SAVE_ACTIVE, in this order; otherwise the window of the
selected table fills the buffer, record i of the window at bytes 16 * (i mod 32) of block i div 32 and empty records
behind the last, its 1 or 2 blocks are handed over as DATA frames, and MGU is in DATA_OUT. DEDUCED (log 20): a record of
STORE is shown as its row holds it but for the move state and the upper attribute bits, which are 0. MODEL'S CHOICE (log
27): the buffer is emptied before it is filled. -/
def Obligations.MapReadTaken : Prop :=
  ∀ (s u : State) (t : Tag) (selector first count : Word), StandsAt s u → TakenAtOnce t u →
    let window := 0 < count.toNat ∧ count.toNat ≤ 64 ∧ first.toNat ≤ 63 ∧ first.toNat + count.toNat ≤ 64
    let good := selector.toNat ≤ 2 ∧ window
    (∀ cause,
      (¬good ∧ cause = .badParam ∨
        good ∧ selector.toNat = 1 ∧ u.xmp.stagingOpen = false ∧ cause = .notOpen ∨
        good ∧ selector.toNat = 2 ∧ u.mst.op ≠ .idle ∧ cause = .saveActive) →
      ∃ w, exec (.mapRead t 7 selector first count) s = .next (finish w) ∧ Answers t .refused cause 0 0 u w ∧
        SameMedia u w ∧ SameManagement u w) ∧
    (good → (selector.toNat = 1 → u.xmp.stagingOpen = true) → (selector.toNat = 2 → u.mst.op = .idle) →
      let v := takeManagement t .mapRead selector first count u
      ∃ block : Fin 2 → Block,
        (∀ i : Fin 64, i.val / 32 * 32 < count.toNat →
          let bs := (block (Fin.ofNat 2 (i.val / 32))).toList
          let a := 16 * (i.val % 32)
          let k : Fin 64 := Fin.ofNat 64 (first.toNat + i.val)
          (count.toNat ≤ i.val → RecordAt bs a Extent.empty) ∧
          (i.val < count.toNat → selector.toNat = 0 → RecordAt bs a u.xmp.active[k]) ∧
          (i.val < count.toNat → selector.toNat = 1 → RecordAt bs a u.xmp.staging[k]) ∧
          (i.val < count.toNat → selector.toNat = 2 → ∀ j, j < 16 →
            let stored := byteAt (u.mst.rows[(Fin.ofNat 8 (k.val / 8))]).toList (16 * (k.val % 8) + j)
            byteAt bs (a + j) = if j = 3 then stored &&& 7 else stored)) ∧
        exec (.mapRead t 7 selector first count) s = .next (finish ((v.setMgu { v.mgu with
            exec := .dataOut, executing := some (t, .mapRead)
            buffer := #v[some (block 0), if count.toNat ≤ 32 then none else some (block 1)] }).setUlc
          { v.ulc with tx := v.ulc.tx ++
            if count.toNat ≤ 32 then [.mgmtData t 0 (block 0)]
            else [.mgmtData t 0 (block 0), .mgmtData t 1 (block 1)] })))

/-- R130: MAP SAVE and LOCK are refused LOCKED, FENCED, NO_MAP or SAVE_ACTIVE, in this order; otherwise the save image
is fixed and the OPEN write starts, and MGU stays IDLE. -/
def Obligations.SaveTaken : Prop :=
  ∀ (s u : State) (t : Tag) (c : Instr) (k : Kind) (locking : Bool), StandsAt s u → TakenAtOnce t u →
    (c, k, locking) ∈ [(Instr.mapSave t 7, Kind.mapSave, false), (Instr.lock t 7, Kind.lock, true)] →
    (∀ cause,
      (u.mst.lock = true ∧ cause = .locked ∨
        u.mst.lock = false ∧ (u.svm.partState = .fenced ∧ cause = .fenced ∨
        u.svm.partState = .bare ∧ cause = .noMap ∨
        u.svm.partState = .run ∧ u.mst.op ≠ .idle ∧ cause = .saveActive)) →
      ∃ w, exec c s = .next (finish w) ∧ Answers t .refused cause 0 0 u w ∧ SameMedia u w ∧ SameManagement u w) ∧
    (u.mst.lock = false → u.svm.partState = .run → u.mst.op = .idle →
      ∃ image : SaveImage,
        (∀ i : Fin 64, image.records[i] =
          if u.xmp.active[i].used = 0 then Extent.empty else { u.xmp.active[i] with moving := false }) ∧
        image.generation = u.xmp.generation ∧
        image.usedCount = (u.xmp.active.toList.countP fun e => e.used = 1) ∧
        image.settings = u.mgu.settings ∧ image.lock = locking ∧
        exec c s = .next (finish ((takeManagement t k 0 0 0 u).setMst { u.mst with
          op := .saving .opening image (some t), storeState := .invalid })))

/-- R134: UNLOCK is refused FENCED, SAVE_ACTIVE or MOVE_ACTIVE, in this order; otherwise the header write of WIPING
starts, and MGU stays IDLE. -/
def Obligations.UnlockTaken : Prop :=
  ∀ (s u : State) (t : Tag), StandsAt s u → TakenAtOnce t u →
    (∀ cause,
      (u.svm.partState = .fenced ∧ cause = .fenced ∨
        u.svm.partState ≠ .fenced ∧ (u.mst.op ≠ .idle ∧ cause = .saveActive ∨
        u.mst.op = .idle ∧ u.mve.isSome ∧ cause = .moveActive)) →
      ∃ w, exec (.unlock t 7) s = .next (finish w) ∧ Answers t .refused cause 0 0 u w ∧ SameMedia u w ∧
        SameManagement u w) ∧
    (u.svm.partState ≠ .fenced → u.mst.op = .idle → u.mve = none →
      exec (.unlock t 7) s = .next (finish ((takeManagement t .unlock 0 0 0 u).setMst { u.mst with
        op := .wiping (some t), storeState := .invalid })))

/-- R142: RESTART is refused SAVE_ACTIVE during a store operation; otherwise it is answered GOOD at once by the CMPL
whose departure starts the part, and MGU is STOPPED. -/
def Obligations.RestartTaken : Prop :=
  ∀ (s u : State) (t : Tag), StandsAt s u → TakenAtOnce t u →
    (u.mst.op ≠ .idle → ∃ w, exec (.restart t 7) s = .next (finish w) ∧ Answers t .refused .saveActive 0 0 u w ∧
      SameMedia u w ∧ SameManagement u w) ∧
    (u.mst.op = .idle → ∃ w, exec (.restart t 7) s = .next (finish w) ∧ entryOf t w = none ∧
      (∀ t', t' ≠ t → entryOf t' w = (entryOf t' u).map (forget t)) ∧
      handed w = handed u ++
        [.cmpl ⟨t, .good, .none, attention u, u.svm.partState, 0, u.xmp.generation, 0⟩ true] ∧
      w.mgu = { u.mgu with exec := .stopped, executing := none } ∧ SameMedia u w ∧ w.xmp = u.xmp ∧ w.mst = u.mst ∧
      w.svm = u.svm)

/-! ### PORT and MOVE -/

/-- R92 to R94, R166: PORT is refused BAD_PARAM for a port number above 3. OFFLINE completes at once on an OFFLINE port;
with a piece at media on a READY port it is left pending with MGU in PORT_WAIT; otherwise the port enters OFFLINE, which
fails its queue PORT_OFFLINE (R72, R81) and aborts a move from or to a READY port (R109; the first failing piece as log
18 reads it, the order of the completions log 7's). -/
def Obligations.PortOfflineTaken : Prop :=
  ∀ (s u : State) (t : Tag) (n : Word), StandsAt s u → TakenAtOnce t u →
    (3 < n.toNat → ∃ w, exec (.portOffline t 7 n) s = .next (finish w) ∧ Answers t .refused .badParam 0 0 u w ∧
      SameMedia u w ∧ SameManagement u w) ∧
    (∀ p : PortId, n.toNat = p.val →
      let x := portOf p u
      let v := takeManagement t .port n 0 0 u
      (x.state = .offline → ∃ w, exec (.portOffline t 7 n) s = .next (finish w) ∧
        Answers t .good .none 0 p.val u w ∧ SameMedia u w ∧ SameManagement u w) ∧
      (∀ id op dest, x.state = .ready → x.outstanding = some (.piece id op dest) →
        exec (.portOffline t 7 n) s = .next (finish ((v.setMgu { v.mgu with
          exec := .portWait, executing := some (t, .port) }).setPorts
            (u.ports.set p { x with offlinePending := .yes (some t) })))) ∧
      (x.state ≠ .offline → (x.state = .ready → x.outstanding = none) →
        ∃ w, exec (.portOffline t 7 n) s = .next (finish w) ∧ Answered t .good .none 0 p.val w ∧
          OutOfService p (offline x) v w ∧
          QueueFails p .portOffline (fun _ => True) (fun _ => True) v w ∧ ExitAborts p .portOffline .portOffline v w ∧
          w.mgu.settings = u.mgu.settings ∧ w.out = u.out))

/-- R92, R94, R166: PORT ONLINE on an OFFLINE port clears its fault count, and the port probes, or is DOWN with no unit
present; on any other port it changes nothing. It completes at the same event. -/
def Obligations.PortOnlineTaken : Prop :=
  ∀ (s u : State) (t : Tag) (n : Word), StandsAt s u → TakenAtOnce t u →
    (3 < n.toNat → ∃ w, exec (.portOnline t 7 n) s = .next (finish w) ∧ Answers t .refused .badParam 0 0 u w ∧
      SameMedia u w ∧ SameManagement u w) ∧
    (∀ p : PortId, n.toNat = p.val →
      let x := portOf p u
      (x.state ≠ .offline → ∃ w, exec (.portOnline t 7 n) s = .next (finish w) ∧
        Answers t .good .none 0 p.val u w ∧ SameMedia u w ∧ SameManagement u w) ∧
      (x.state = .offline → ∃ w, exec (.portOnline t 7 n) s = .next (finish w) ∧
        Answers t .good .none 0 p.val u w ∧ SameManagement (portNoted u) w ∧ w.psc = u.psc ∧ w.spa = u.spa ∧
        w.ports = u.ports.set p (if u.pins.presentLow[p] then probing .probing { x with faults := 0 }
          else { x with state := .down, faults := 0, mrst := false }) ∧
        w.out = if u.pins.presentLow[p] then { u.out with media := u.out.media ++ probeFrames p } else u.out))

/-- R98, R99: MOVE is refused by the first check that matches; otherwise the extent is MOVING, the generation stays, and
the context takes the extent, its destination and the first chunk in HELD with its blocking set, whose blocks are named
by unit and LBA (log 8, DEDUCED). -/
def Obligations.MoveJudged : Prop :=
  ∀ (s u : State) (t : Tag) (d p : Byte) (l a : Word), StandsAt s u → TakenAtOnce t u →
    let c := Instr.move t 7 d p l a
    let named := u.xmp.active.toList.find? fun e => e.used = 1 && e.unit = d && e.lstart = l
    let dst : PortId := Fin.ofNat 4 p.toNat
    let fits := fun e : Extent => d.toNat ≤ 3 ∧ p.toNat ≤ 3 ∧ a.toNat + e.length.toNat ≤ 4294967296
    let meets := fun (e : Extent) (i : Fin 64) => let x := u.xmp.active[i]
      x.used = 1 ∧ extentPort x = dst ∧ a.toNat < x.pstart.toNat + x.length.toNat ∧
        x.pstart.toNat < a.toNat + e.length.toNat
    let ready := fun q => (portOf q u).state = .ready
    (∀ cause detail,
      (u.svm.partState = .bare ∧ cause = .noMap ∧ detail = 0 ∨
        u.svm.partState ≠ .bare ∧ (u.mst.lock = true ∧ cause = .locked ∧ detail = 0 ∨
        u.mst.lock = false ∧ (u.svm.partState = .fenced ∧ cause = .fenced ∧ detail = 0 ∨
        u.svm.partState ≠ .fenced ∧ (u.mve.isSome ∧ cause = .moveActive ∧ detail = 0 ∨
        u.mve = none ∧ ((∀ e, named = some e → ¬fits e) ∧ cause = .badParam ∧ detail = 0 ∨
        ∃ e, named = some e ∧ fits e ∧ (¬ready (extentPort e) ∧ cause = .portOffline ∧ detail = (extentPort e).val ∨
        ready (extentPort e) ∧ (¬ready dst ∧ cause = .portOffline ∧ detail = dst.val ∨
        ready dst ∧ cause = .overlap ∧
          ∃ i : Fin 64, detail = i.val ∧ meets e i ∧ ∀ j, j < i → ¬meets e j))))))) →
      ∃ w, exec c s = .next (finish w) ∧ Answers t .refused cause 0 detail u w ∧ SameMedia u w ∧ SameManagement u w) ∧
    (∀ e, u.svm.partState = .run → u.mst.lock = false → u.mve = none → named = some e → fits e →
      ready (extentPort e) → ready dst → (∀ i, ¬meets e i) →
      ∃ (act : ExtMap) (blocking : List Tag),
        let v := takeManagement t .move (moveWord d p) l a u
        let m : Move := ⟨false, t, d, l.toNat, e.length.toNat, extentPort e, e.pstart.toNat, dst, a.toNat, e.verify, 0,
          some ⟨min 8 e.length.toNat, .held⟩, none, blocking, [], []⟩
        exec c s = .next (finish ((v.setXmp { u.xmp with active := act }).setMve (some m))) ∧
        (∀ t', t' ∈ blocking ↔ BlocksChunk m t' v) ∧
        ∀ i : Fin 64, act[i] = let x := u.xmp.active[i]
          if x.used = 1 ∧ x.unit = d ∧ x.lstart = l then { x with moving := true } else x)

/-- R159, R160: MGU takes the head of its queue: the entry is ACTIVE and leaves the queue, and MGU acts by its kind
(`mguActs`, of which the statements on requests taken at their arrival say what it does). Otherwise nothing happens. -/
def Obligations.MguTakesHead : Prop :=
  ∀ (s u : State), running s = true → settlePrompt s = u →
    (∀ t rest e, u.mgu.exec = .idle → u.svm.partState ≠ .loading → u.rqt.mgmt = t :: rest → entryOf t u = some e →
      exec .mguTakesHead s = .next (finish (mguActs t { e with state := .active }
        (u.setRqt { u.rqt with
          mgmt := rest, entries := u.rqt.entries.set t (some { e with state := .active }) })))) ∧
    (u.mgu.exec ≠ .idle ∨ u.svm.partState = .loading ∨ u.rqt.mgmt = [] → exec .mguTakesHead s = .next u)

/-! ### Frames from the host -/

/-- R174, R175, R26, R92: a frame that fails a test is discarded and sets LINK. A REQ whose kind code names no kind is
refused, BAD_UNIT or BAD_KIND. A PORT request whose action is neither OFFLINE nor ONLINE is refused BAD_PARAM. -/
def Obligations.BadFrameHandled : Prop :=
  ∀ (s u : State) (frame : List Byte), StandsAt s u →
    let n := frame.length - 2
    let kind := byteAt frame 0
    let good := 3 ≤ frame.length ∧ (halfAt frame n).toNat = checkWord (frame.take n) ∧
      (kind = 1 ∧ n = 21 ∨ kind = 2 ∧ n = 517 ∨ kind = 3 ∧ n = 2 ∨ kind = 4 ∧ n = 1) ∧
      (kind = 4 ∨ (byteAt frame 1).toNat ≤ 15)
    (¬good → exec (.badFrame frame) s = .next (finish (linkNoted u))) ∧
    (∀ t : Tag, good → kind = 1 → (byteAt frame 1).toNat = t.val → entryOf t u = none →
      (kindOf (byteAt frame 3) = none →
        exec (.badFrame frame) s = .next (finish (u.setUlc { u.ulc with
          withdrawn := u.ulc.withdrawn.set t []
          tx := u.ulc.tx ++ [.cmpl ⟨t, .refused,
            if (byteAt frame 2).toNat ≤ 3 ∨ byteAt frame 2 = 7 then .badKind else .badUnit, attention u,
            u.svm.partState, 0, u.xmp.generation, 0⟩ false] }))) ∧
      (byteAt frame 3 = 29 → byteAt frame 2 = 7 → TakenAtOnce t u → 1 < (wordAt frame 13).toNat →
        ∃ w, exec (.badFrame frame) s = .next (finish w) ∧ Answers t .refused .badParam 0 0 u w ∧ SameMedia u w ∧
          SameManagement u w))

/-- R172, R173, R179: every frame that the host may send is read back from its bytes as it was, and passes the tests. -/
def Obligations.FramesReadBack : Prop := ∀ m : HostMessage, hostMessage (messageBytes m) = some m

/-- R63, R65, R118: a DATA frame from the host fills its block of the grant that covers it; the last block ends the
grant, and that of a MAP STAGE applies its records. A second frame for a block, and one that no grant covers and whose
offset was not withdrawn, set LINK; a withdrawn offset is discarded. MODEL'S READING (log 17, DEDUCED): with staging
CLOSED by then no record is placed and the MAP STAGE is answered GOOD. -/
def Obligations.HostDataTaken : Prop :=
  ∀ (s u : State) (t : Tag) (off : Half) (b : Block), StandsAt s u →
    let c := Instr.hostData t off b
    let o := off.toNat
    ((∀ g ∈ u.ulc.grants, g.tag = t → ¬(g.first ≤ o ∧ o < g.first + g.count)) →
      exec c s = .next (finish (if o ∈ u.ulc.withdrawn[t] then u else linkNoted u))) ∧
    (∀ g, OnlyCover g o u → g.tag = t →
      let i := o - g.first
      let ended := fun v : State => v.setUlc { v.ulc with
        grants := v.ulc.grants.filter (· ≠ g), tx := v.ulc.tx.filter (· ≠ .grant g.tag g.first g.count) }
      (∀ id q k, g.target = .piece id → pieceOf id u = some q → q.slots[i]? = some k →
        (i ∈ q.filled → exec c s = .next (finish (linkNoted u))) ∧
        (i ∉ q.filled →
          let v := (u.setSpa { u.spa with slots := u.spa.slots.set k b }).setPsc { u.psc with
            pieces := u.psc.pieces.set id (some { q with filled := q.filled ++ [i] }) }
          exec c s = .next (finish (if ∀ j, j < g.count → j ∈ q.filled ++ [i] then ended v else v)))) ∧
      (∀ k : Fin 2, g.target = .buffer → g.count ≤ 2 → i = k.val →
        ((u.mgu.buffer[k]).isSome → exec c s = .next (finish (linkNoted u))) ∧
        (u.mgu.buffer[k] = none →
          let v := u.setMgu { u.mgu with buffer := u.mgu.buffer.set k (some b) }
          ((∃ j : Fin 2, j.val < g.count ∧ v.mgu.buffer[j] = none) → exec c s = .next (finish v)) ∧
          (∀ e, (∀ j : Fin 2, j.val < g.count → (v.mgu.buffer[j]).isSome) → entryOf t u = some e →
            ∃ w, exec c s = .next (finish w) ∧ Answers t .good .none 0 e.p1.toNat (ended u) w ∧ SameMedia u w ∧
              w.mgu = { u.mgu with exec := .idle, executing := none, buffer := #v[none, none] } ∧ w.mst = u.mst ∧
              w.svm = u.svm ∧ w.xmp.active = u.xmp.active ∧ w.xmp.generation = u.xmp.generation ∧
              w.xmp.stagingOpen = u.xmp.stagingOpen ∧
              ∀ j : Fin 64, w.xmp.staging[j] =
                if u.xmp.stagingOpen = true ∧ e.p0.toNat ≤ j.val ∧ j.val < e.p0.toNat + e.p1.toNat then
                  normalExtent (decodeExtent (recordBytes (bufferBytes v) (j.val - e.p0.toNat)))
                else u.xmp.staging[j]))))

/-! ### CANCEL and link reset -/

/-- R43, R45: CANCEL answers a waiting request CANCELLED, aborts a move and releases its pieces (R71, R110, R111), and
ends a MAP STAGE that waits for its data with staging unchanged. On a FREE or DRAINING entry, and on any other
management request, it has no effect. -/
def Obligations.CancelTaken : Prop :=
  ∀ (s u : State) (t : Tag), StandsAt s u →
    (entryOf t u = none → exec (.cancel t) s = .next (finish u)) ∧
    (∀ e, entryOf t u = some e →
      let held := e.kind = .move ∧ (∃ m, u.mve = some m ∧ m.tag = t)
      let staging := e.kind = .mapStage ∧ u.mgu.exec = .dataIn
      let management := e.kind ∉ [.read, .write, .verify, .flush]
      (e.state = .draining ∨ e.state = .active ∧ management ∧ ¬held ∧ ¬staging →
        exec (.cancel t) s = .next (finish u)) ∧
      (e.state = .queued ∨ e.state = .barrier → ∃ w, exec (.cancel t) s = .next (finish w) ∧
        Answers t .cancelled .none (if e.kind ∈ [.read, .write, .verify] then e.count else 0) 0 u w ∧
        SameMedia u w ∧ SameManagement u w) ∧
      (e.state = .active → held → ∃ w, exec (.cancel t) s = .next (finish w) ∧ Answered t .cancelled .none 0 0 w ∧
        w.mve = none ∧ w.xmp = { u.xmp with active := settleMap u.xmp.active } ∧ w.mgu = u.mgu ∧ w.mst = u.mst ∧
        w.svm = u.svm ∧ w.ports = u.ports ∧ w.out = u.out ∧ ∀ m, u.mve = some m → AbortAlone m u w) ∧
      (e.state = .active → staging → ∃ w, exec (.cancel t) s = .next (finish w) ∧ Answers t .cancelled .none 0 0 u w ∧
        SameMedia u w ∧ w.mgu = { u.mgu with exec := .idle, executing := none, buffer := #v[none, none] } ∧
        w.xmp = u.xmp ∧ w.mst = u.mst ∧ w.svm = u.svm))

/-- R44, R48, R65: CANCEL on an ACTIVE READ, WRITE or VERIFY drops what is not cut and the pieces in QUEUED and FILLING,
their slots freed and their grants withdrawn, and one on a FLUSH its uncut ports and its QUEUED pieces. The request's
other pieces run on, and the entry drains, or completes when no piece remains. -/
def Obligations.CancelDrains : Prop :=
  ∀ (s u : State) (t : Tag) (e : Entry), StandsAt s u → entryOf t u = some e → e.state = .active →
    (namesBlocks e.kind = true →
      let gone := allPieces.countP fun j => (pieceOf j u).any fun q =>
        q.owner = .tag t && (q.state = .queued || q.state = .filling)
      ∃ w, exec (.cancel t) s = .next (finish w) ∧
        HeldOrAnswered t { e with cancelTaken := true, state := .draining, notEnded := e.notEnded - gone } w ∧
        t ∉ w.rqt.active ∧ SameManagement u w ∧ w.mve.isSome = u.mve.isSome ∧ w.ports = u.ports ∧
        PiecesDropped t none (fun q => q.state = .queued || q.state = .filling) u w ∧
        PiecesRunOn t none (fun q => q.state = .queued || q.state = .filling) u w ∧
        (∀ j q, pieceOf j u = some q → q.owner ≠ .tag t → pieceOf j w = some q) ∧
        ∀ j q, pieceOf j w = some q → q.owner = .tag t → q.state ≠ .queued ∧ q.state ≠ .filling) ∧
    (e.kind = .flush →
      ∃ w, exec (.cancel t) s = .next (finish w) ∧
        FlushHeldOrAnswered t (flushStopped t none u { e with cancelTaken := true, state := .draining }) w ∧
        t ∉ w.rqt.flushing ∧ SameManagement u w ∧ w.mve.isSome = u.mve.isSome ∧ w.ports = u.ports ∧
        PiecesDropped t none (fun q => q.state = .queued) u w ∧
        PiecesRunOn t none (fun q => q.state = .queued) u w ∧
        (∀ j q, pieceOf j u = some q → q.owner ≠ .tag t → pieceOf j w = some q) ∧
        ∀ j q, pieceOf j w = some q → q.owner = .tag t → q.state ≠ .queued)

/-- R49, R71, R73, R111, R113, R136, R176, R178: a link reset frees every entry without a completion; drops, ends or
detaches each piece by its owner and state; aborts a move; closes staging; keeps the CMPL frames and the DATA of a PEEK
in their order; and leaves ports, store, settings, flags and generation. -/
def Obligations.LinkResetTaken : Prop :=
  ∀ (s u : State), StandsAt s u →
    ∃ w, exec .linkReset s = .next (finish w) ∧
      (∀ t, entryOf t w = none) ∧ w.rqt.intake = [] ∧ w.rqt.mgmt = [] ∧ w.rqt.active = [] ∧ w.rqt.barrier = [] ∧
      w.rqt.flushing = [] ∧ w.ulc.grants = [] ∧ (∀ t : Tag, w.ulc.withdrawn[t] = []) ∧
      w.ulc.tx = u.ulc.tx.filter (fun f => match f with | .cmpl _ _ => true | .peekData _ _ => true | _ => false) ∧
      (∀ id q t, pieceOf id u = some q → q.owner = .tag t →
        let moved := ∃ m, u.mve = some m ∧ (id ∈ m.shadows ∨ id ∈ u.psc.waiting)
        (q.state = .queued ∨ q.state = .filling ∨ q.state = .delivering →
          pieceOf id w = none ∧ ∀ k ∈ q.slots, k ∈ w.spa.free) ∧
        (q.state = .atMedia ∨ q.state = .verifying →
          (moved → pieceOf id w = some { q with owner := .discard, shadow := none }) ∧
          (¬moved → pieceOf id w = some { q with owner := .discard })) ∧
        (q.state = .shadow → pieceOf id w = some { q with owner := .discard }) ∧
        (q.state = .shadowWait → q.kind = .wr →
          (moved → pieceOf id w = none ∧ ∀ k ∈ q.slots, k ∈ w.spa.free) ∧
          (¬moved → pieceOf id w = some { q with owner := .discard }))) ∧
      (∀ id q m, pieceOf id u = some q → q.owner = .move → q.kind = .cp → u.mve = some m → id ∈ m.shadows →
        (q.state = .queued → pieceOf id w = none ∧ ∀ k ∈ q.slots, k ∈ w.spa.free) ∧
        (q.state = .atMedia → pieceOf id w = some { q with owner := .discard, shadow := none }) ∧
        (q.state = .shadow → pieceOf id w = some { q with owner := .discard })) ∧
      (∀ p, queueOf p w = (queueOf p u).filter fun id => (pieceOf id u).isNone || (pieceOf id w).isSome) ∧
      (∀ id q, pieceOf id w = some q → ∀ t, q.owner ≠ .tag t) ∧
      w.spa.pointer = u.spa.pointer ∧ w.spa.passOver = u.spa.passOver ∧
      (∀ p, portOf p w = { portOf p u with
        offlinePending := match (portOf p u).offlinePending with | .no => .no | .yes _ => .yes none }) ∧
      w.mve = none ∧ w.xmp.generation = u.xmp.generation ∧ w.xmp.stagingOpen = false ∧
      w.xmp.staging = ExtMap.empty ∧
      (∀ i : Fin 64, w.xmp.active[i] = if u.mve.isSome then { u.xmp.active[i] with moving := false }
        else u.xmp.active[i]) ∧
      w.mgu = { u.mgu with
        exec := if u.mgu.exec = .stopped then .stopped else .idle, executing := none, buffer := #v[none, none] } ∧
      w.mst = { u.mst with op := match u.mst.op with
        | .idle => .idle
        | .saving step img _ => .saving step img none
        | .wiping _ => .wiping none } ∧
      w.svm = u.svm ∧ w.out = u.out ∧ w.pins = u.pins

/-! ### Departures, start-up and the lines -/

/-- R60, R67, R72, R91: the DATA frame of a READ leaves: its slot is released, and the next block is handed over, or the
piece ends DONE to its request and sets the fault count of its port to 0, if that port is READY. The slot list shrinks
with each departure, and the next offset follows from its length (log 5, DEDUCED). -/
def Obligations.ReadDataDeparts : Prop :=
  ∀ (s u : State) (id : PieceId) (t : Tag) (off : Nat) (b : Block) (rest : List TxFrame) (q : Piece), StandsAt s u →
    u.ulc.tx = .readData id t off b :: rest → pieceOf id u = some q → q.owner = .tag t →
    (∀ k k' ks, q.slots = k :: k' :: ks →
      exec .readDataDeparts s = .next (finish ((((u.setUlc { u.ulc with tx := rest ++
            [.readData id t (q.offset + (q.count - (ks.length + 1))) u.spa.slots[k']] }).setOut
          { u.out with sent := u.out.sent ++ [.data t off b] }).setSpa { u.spa with free := u.spa.free ++ [k] }).setPsc
          { u.psc with pieces := u.psc.pieces.set id (some { q with slots := k' :: ks }) }))) ∧
    (∀ e, q.slots.length ≤ 1 → entryOf t u = some e → Resolved e →
      ∃ w, exec .readDataDeparts s = .next (finish w) ∧ PieceGone id q w ∧ PieceDone t e q w ∧
        (∀ p, portOf p w = if p = q.port ∧ (portOf p u).state = .ready then { portOf p u with faults := 0 }
          else portOf p u) ∧
        w.out = { u.out with sent := u.out.sent ++ [.data t off b] } ∧ SameManagement u w)

/-- R126, R161, R163, R176: the frame at the front of the transmit list leaves. A CMPL, a GRANT and the DATA of a PEEK
only leave. The last DATA frame of a management request completes it and frees MGU; that of STATUS carries the status
record of that moment and then clears the change flags and LAPSE. MODEL'S CHOICE (log 11): a departure of another kind
than that of the frame at the front does nothing; and (log 27) the buffer is emptied at the end of a MAP READ too. -/
def Obligations.FramesDepart : Prop :=
  ∀ (s u : State), StandsAt s u →
    (∀ c ∈ [Instr.frameDeparture, .readDataDeparts, .mgmtDataDeparts, .restartCmplDeparts], u.ulc.tx = [] →
      exec c s = .next (finish u)) ∧
    ∀ (f : TxFrame) (rest : List TxFrame), u.ulc.tx = f :: rest →
    let left := fun h => (u.setUlc { u.ulc with tx := rest }).setOut { u.out with sent := u.out.sent ++ [h] }
    (∀ h, (∃ c, f = .cmpl c false ∧ h = .cmpl c ∨ ∃ t a n, f = .grant t a n ∧ h = .grant t a n ∨
        ∃ t b, f = .peekData t b ∧ h = .data t 0 b) → exec .frameDeparture s = .next (finish (left h))) ∧
    ((∃ c, f = .cmpl c true) ∨ (∃ id t n b, f = .readData id t n b) ∨ (∃ t n b, f = .mgmtData t n b) ∨
      (∃ t, f = .statusData t) → exec .frameDeparture s = .next (finish u)) ∧
    ((∀ id t n b, f ≠ .readData id t n b) → exec .readDataDeparts s = .next (finish u)) ∧
    ((∀ t n b, f ≠ .mgmtData t n b) → (∀ t, f ≠ .statusData t) → exec .mgmtDataDeparts s = .next (finish u)) ∧
    ((∀ c, f ≠ .cmpl c true) → exec .restartCmplDeparts s = .next (finish u)) ∧
    (∀ t n b, f = .mgmtData t n b →
      ((∃ t' n' b', .mgmtData t' n' b' ∈ rest) →
        exec .mgmtDataDeparts s = .next (finish (left (.data t n b)))) ∧
      (∀ e, (∀ t' n' b', .mgmtData t' n' b' ∉ rest) → entryOf t u = some e →
        ∃ w, exec .mgmtDataDeparts s = .next (finish w) ∧ SameMedia (left (.data t n b)) w ∧
          Answers t .good .none 0 (if e.kind = .mapRead then e.p2.toNat else 0) (left (.data t n b)) w ∧
          w.mgu = { u.mgu with exec := .idle, executing := none, buffer := #v[none, none] } ∧ w.xmp = u.xmp ∧
          w.mst = u.mst ∧ w.svm = u.svm)) ∧
    (∀ t e, f = .statusData t → entryOf t u = some e → e.kind = .status →
      let v := left (.data t 0 (statusRecord u))
      ∃ w, exec .mgmtDataDeparts s = .next (finish w) ∧ SameMedia v w ∧ Answers t .good .none 0 0 v w ∧
        attention w = false ∧ w.mgu = { u.mgu with
          exec := .idle, executing := none, buffer := #v[none, none], flags := ⟨false, false, false, false, false⟩ } ∧
        w.xmp = u.xmp ∧ w.mst = u.mst ∧ w.svm = { u.svm with lapse := false })

/-- R139, R142: the start-ups, with their start causes: at the release of RESETn, when power becomes good with RESETn
released, and when the CMPL of a RESTART has left. With RESETn asserted a part that gets power waits. MODEL'S CHOICE:
the slot contents stay (log 6), and so does the record of what has left the part (log 4). -/
def Obligations.StartUps : Prop :=
  ∀ (s : State),
    (s.pins.resetLow = true → s.pins.powered = true → ∃ t, exec .resetnReleased s = .next t ∧
      Fresh (if s.pins.started then .pin else .power) t ∧ StartKeeps s t ∧ t.pins.resetLow = false ∧
      t.pins.powered = true) ∧
    (s.pins.powered = false → s.pins.resetLow = false → s.pins.started = false → ∃ t, exec .powerOn s = .next t ∧
      Fresh .power t ∧ StartKeeps s t ∧ t.pins.resetLow = false ∧ t.pins.powered = true) ∧
    (s.pins.powered = false → s.pins.resetLow = true →
      exec .powerOn s = .next (s.setPins { s.pins with powered := true })) ∧
    (∀ u c rest, StandsAt s u → u.ulc.tx = .cmpl c true :: rest → ∃ t, exec .restartCmplDeparts s = .next (finish t) ∧
      Fresh .restart t ∧ StartKeeps (u.setOut { u.out with sent := u.out.sent ++ [.cmpl c] }) t)

/-- R137, R139, R140: the assertion of RESETn and a power loss stop the part. A store write in progress is cut off and
leaves its header or row unknown within the bound of R137; the start-up read is abandoned; the rest of the store image
stays. -/
def Obligations.PartStops : Prop :=
  ∀ (s u : State) (c : Instr) (pins : Pins), StandsAt s u →
    (c = .resetnAsserted ∧ pins = { u.pins with resetLow := true } ∨
      c = .powerLoss ∧ pins = { u.pins with powered := false, started := false }) →
    ∃ w, exec c s = .next w ∧ running w = false ∧ w.pins = pins ∧ w.mst.op = .idle ∧ w.mst.reading = false ∧
      w.out = u.out ∧ w.pending = u.pending ∧
      match u.mst.op with
      | .idle => w.mst.header = u.mst.header ∧ w.mst.rows = u.mst.rows
      | .saving .opening _ _ | .wiping _ =>
        LeftUnknown headerGood u.mst.header invalidHeader w.mst.header ∧ w.mst.rows = u.mst.rows
      | .saving (.row n) img _ => w.mst.header = u.mst.header ∧
        LeftUnknown rowGood u.mst.rows[n] (imageRow img n) w.mst.rows[n] ∧
        ∀ k : Fin 8, k ≠ n → w.mst.rows[k] = u.mst.rows[k]
      | .saving .closing img _ =>
        LeftUnknown headerGood u.mst.header (imageHeader img) w.mst.header ∧ w.mst.rows = u.mst.rows

/-- R77, R79, R80, R93: PRESENTn going low starts a probe at a DOWN port; going high takes a port in service DOWN, or
OFFLINE with offline pending, which fails its queue PORT_DOWN (R72), aborts a move from or to a READY port (R109; log 7,
log 18), and passes on a reserve that it held (R62; log 12). At any other port, and
with no change of the level, only the level is kept: R79 says so of OFFLINE; of the cells that it marks as events which
cannot reach the port it is the MODEL'S CHOICE (log 11). -/
def Obligations.PresenceChanges : Prop :=
  ∀ (s u : State) (p : PortId), StandsAt s u →
    let x := portOf p u
    let level := fun (b : Bool) (v : State) => v.setPins { v.pins with presentLow := v.pins.presentLow.set p b }
    (s.pins.presentLow[p] = true → exec (.presentnAsserted p) s = .next s) ∧
    (s.pins.presentLow[p] = false → exec (.presentnReleased p) s = .next s) ∧
    (s.pins.presentLow[p] = false →
      (x.state = .down → exec (.presentnAsserted p) s = .next (level true (finish (((portNoted u).setPorts
        (u.ports.set p (probing .probing x))).setOut { u.out with media := u.out.media ++ probeFrames p })))) ∧
      (x.state ≠ .down → exec (.presentnAsserted p) s = .next (level true (finish u)))) ∧
    (s.pins.presentLow[p] = true →
      (x.state = .down ∨ x.state = .offline → exec (.presentnReleased p) s = .next (level false (finish u))) ∧
      (x.state ≠ .down → x.state ≠ .offline → x.offlinePending = .no →
        ∃ w, exec (.presentnReleased p) s = .next (level false (finish w)) ∧ w.out = u.out ∧
          OutOfService p (unplugged x) u w ∧
          QueueFails p .portDown (fun _ => True) (fun _ => True) u w ∧ ExitAborts p .portDown .portDown u w ∧
          (∀ rest, u.spa.reserve = p :: rest → (∀ q, q ≠ p → queueOf q w = queueOf q u) →
            w.spa.reserve = (rotation u.spa.pointer).filter fun q =>
              q ≠ p && (q ∈ rest || u.spa.passOver[q] = 4 && (claimOf q u).isSome))) ∧
      (x.state ≠ .down → x.state ≠ .offline → x.offlinePending ≠ .no →
        ∃ w, exec (.presentnReleased p) s = .next (level false (finish w)) ∧ w.out = u.out ∧
          OutOfService p (offline x) u w ∧
          QueueFails p .portDown (fun _ => True) (fun _ => True) u w ∧ ExitAborts p .portDown .portOffline u w))

/-- R151 to R154: WPn asserted adds the cause PIN, and a part in RUN enters FENCED, which aborts a move and releases its
pieces (R71, R110, R111); WPn released
removes it, and a FENCED part with no cause left enters RUN with a fresh period. A change of the causes sets FENCE; with
no change only the level is kept. MODEL'S CHOICE (log 6): a timer that stops keeps the length of its period. -/
def Obligations.WritePinChanges : Prop :=
  ∀ (s u : State), StandsAt s u → SupervisionSound u →
    let level := fun (b : Bool) (v : State) => v.setPins { v.pins with wpnLow := b }
    let noted := { u.mgu with flags := { u.mgu.flags with fence := true } }
    (u.svm.causes.pin = true → exec .wpnAsserted s = .next (level true (finish u))) ∧
    (u.svm.causes.pin = false → exec .wpnReleased s = .next (level false (finish u))) ∧
    (u.svm.causes.pin = false → u.svm.partState ≠ .run → exec .wpnAsserted s = .next (level true (finish
      ((u.setSvm { u.svm with causes := { u.svm.causes with pin := true } }).setMgu noted)))) ∧
    (u.svm.causes.pin = false → u.svm.partState = .run → ∃ w, exec .wpnAsserted s = .next (level true (finish w)) ∧
      w.svm = { u.svm with partState := .fenced, timer := .stopped, causes := ⟨false, true⟩ } ∧ w.mgu = noted ∧
      MoveFails .fenced u w ∧ w.ports = u.ports ∧ w.mst = u.mst) ∧
    (u.svm.causes.pin = true →
      let freed := u.svm.partState = .fenced ∧ u.svm.causes.supervision = false
      exec .wpnReleased s = .next (level false (finish ((u.setSvm {
        (if freed ∧ u.mgu.settings.mode ≠ .off then periodStarts u.mgu.settings u.svm else u.svm) with
          partState := if freed then .run else u.svm.partState
          causes := ⟨u.svm.causes.supervision, false⟩ }).setMgu noted))))

/-! ### Timers and the media links -/

/-- R64, R119: GRANT_TIME expires with blocks missing: the WRITE piece fails DATA_TIMEOUT at the lowest missing block
and its missing offsets are withdrawn; the request's pieces that draining drops have ended with their slots and grants,
and the others run on (R35, R65); a MAP STAGE is answered FAILED DATA_TIMEOUT with staging unchanged. -/
def Obligations.GrantExpires : Prop :=
  ∀ (s u : State) (t : Tag) (first : Half) (g : Grant) (i : Nat), StandsAt s u →
    g ∈ u.ulc.grants → g.tag = t → g.first = first.toNat →
    (∀ g' ∈ u.ulc.grants, g'.tag = t → g'.first = first.toNat → g' = g) →
    i < g.count → i ∉ filledOf g u → (∀ j, j < i → j ∈ filledOf g u) →
    let c := Instr.grantTimeExpiry t first
    (∀ id q e, g.target = .piece id → pieceOf id u = some q → q.owner = .tag t → q.state = .filling →
      entryOf t u = some e → Resolved e →
      ∃ w, exec c s = .next (finish w) ∧ PieceGone id q w ∧ g ∉ w.ulc.grants ∧ GrantsWithdrawn id q u w ∧
        PieceFailed t e id (q.offset + i) .dataTimeout u w ∧ w.mve.isSome = u.mve.isSome ∧ w.ports = u.ports ∧
        SameManagement u w) ∧
    (g.target = .buffer →
      ∃ w, exec c s = .next (finish w) ∧ Answers t .failed .dataTimeout 0 i u w ∧ SameMedia u w ∧
        (∀ j, j < g.count → j ∉ filledOf g u → g.first + j ∈ w.ulc.withdrawn[t]) ∧
        w.mgu = { u.mgu with exec := .idle, executing := none, buffer := #v[none, none] } ∧ w.xmp = u.xmp ∧
        w.mst = u.mst ∧ w.svm = u.svm)

/-- R88, R89, R91: a piece timer expiry and a NOT_READY for the piece at media are faults: the piece ends TIMEOUT at
index 0, the count rises and PORT is set; the port probes in RECOVERING, the rest of its queue waiting, or is OFFLINE at
4 faults or with offline pending, its queue failing PORT_OFFLINE (R81). A NOT_READY with a bad check word, or with no
piece at media, a probe outstanding among the cases, is discarded (R76, R85), and an expiry of a timer that does not run
does nothing (MODEL'S CHOICE, log 11). The owner, a FLUSH too (R48), takes the outcome, which drops the pieces that R35
names and lets the others run, also where the event ends a move or fails the rest of the queue: its completion carries
the generation of `u` (log 19), and the piece's end is taken before the exit (log 25). A move from or to the port is
answered by its first failing piece or with the cursor (R109; log 7, log 18), unless the piece's end has made its switch
due (log 25). MODEL'S CHOICE (log 26): the pass-over count is set to 0 also when the head held no claim. -/
def Obligations.MediaFault : Prop :=
  ∀ (s u : State) (c : Instr) (p : PortId), StandsAt s u →
    let x := portOf p u
    (∀ check, c = .mediaStsNotReady p check → check = false ∨ x.state ≠ .ready ∨ x.outstanding = none ∨
      x.outstanding = some .inquiry → exec c s = .next (finish u)) ∧
    (c = .pieceTimerExpiry p → x.pieceTimer = none ∨ x.state ≠ .ready ∨ x.outstanding = none ∨
      x.outstanding = some .inquiry → exec c s = .next (finish u)) ∧
    ∀ (id : PieceId) (op : MediaOp) (dest : Bool) (q : Piece), x.state = .ready →
    x.outstanding = some (.piece id op dest) → pieceOf id u = some q →
    (c = .pieceTimerExpiry p ∧ x.pieceTimer.isSome ∨ c = .mediaStsNotReady p true) →
    let y := { x with faults := x.faults + 1 }
    let probes := x.faults + 1 < 4 ∧ x.offlinePending = .no
    ∃ w, exec c s = .next (finish w) ∧ PieceGone id q w ∧
      (probes →
        portOf p w = probing .recovering y ∧ (∀ p', p' ≠ p → portOf p' w = portOf p' u) ∧
        w.mgu = (portNoted u).mgu ∧ w.out = { u.out with media := u.out.media ++ probeFrames p } ∧
        w.spa.passOver[p] = 0 ∧
        (∀ m, u.mve = some m → m.srcPort = p ∨ m.dstPort = p → w.mve = none) ∧
        -- the rest of the queue waits, where nothing aborts a move and draining does not drop it
        ((∀ m, u.mve = some m → m.srcPort ≠ p ∧ m.dstPort ≠ p ∧ failingLba m id 0 u = none) →
          (∀ p', queueOf p' w = (queueOf p' u).filter fun j => (pieceOf j u).isNone || (pieceOf j w).isSome) ∧
          ∀ j r, j ≠ id → pieceOf j u = some r →
            (∀ t e, q.owner = .tag t → r.owner = .tag t → q.state ≠ .shadow → entryOf t u = some e →
              (if e.kind = .flush then flushDrops e r else failureDrops e q.offset r) = false) →
            pieceOf j w = some r) ∧
        (u.mve = none → ∀ t e, q.owner = .tag t → entryOf t u = some e → Resolved e →
          (q.state ≠ .shadow → PieceFailed t e id q.offset .timeout u w) ∧
          (q.state = .shadow → q.kind = .wr → PieceDone t e q w))) ∧
      (¬probes → OutOfService p (offline y) u w ∧ w.out = u.out ∧
        QueueFails p .portOffline (fun _ => True) (fun t => q.owner ≠ .tag t) u w) ∧
      -- what becomes of a move from or to the port
      (∀ m, u.mve = some m → m.srcPort = p ∨ m.dstPort = p →
        SwitchedOr m q m.cursor (
          (match failingLba m id 0 u with
            | some lba => w.mve = none ∧ w.xmp = { u.xmp with active := settleMap u.xmp.active } ∧
              Answered m.tag .failed .timeout 0 lba w
            | none => ExitAnswered m (if probes then [] else queueOf p u) .portOffline
              (if probes then .timeout else .portOffline) m.cursor u w) ∧
          ShadowsReleased m
            (fun j r => j ≠ id ∧ (r.owner = q.owner → q.state = .shadow ∧ q.kind ≠ .cp) ∧
              (probes ∨ j ∉ queueOf p u ∧ ∀ t, r.owner = .tag t → queueSpares t p u))
            (fun t => q.owner ≠ .tag t ∧ x.offlinePending ≠ .yes (some t) ∧
              (probes ∨ ∀ j r, pieceOf j u = some r → r.owner = .tag t → j ∉ queueOf p u)) u w) u w ∧
        (∀ t e, m.cursor = m.length → u.mst.op = .idle → m.dual = [t] → q.owner = .tag t → q.state ≠ .shadow →
          entryOf t u = some e → Resolved e → e.notEnded = 1 → cuttable e = false →
          w.xmp.generation ≠ u.xmp.generation)) ∧
      (∀ t e, q.owner = .tag t → entryOf t u = some e → Resolved e →
        (q.state ≠ .shadow → ∀ e', entryOf t w = some e' →
          (∃ f cause, e'.failure = some (f, cause) ∧ f ≤ q.offset) ∧
          PiecesDropped t (some id) (failureDrops e q.offset) u w) ∧
        (q.state = .shadow → q.kind = .wr →
          ∀ e', entryOf t w = some e' → ∀ i, i < q.count → q.offset + i ∈ e'.done) ∧
        (q.state ≠ .shadow → e.waitSet = [] → ExitSpares t id p (fun r =>
            decide probes || failureDrops e q.offset r) u →
          PieceFailed t e id q.offset .timeout u (w.setXmp u.xmp)) ∧
        (q.state = .shadow → q.kind = .wr → e.waitSet = [] → ExitSpares t id p (fun _ => decide probes) u →
          PieceDone t e q (w.setXmp u.xmp))) ∧
      (∀ t e, q.owner = .tag t → entryOf t u = some e → e.kind = .flush → e.state = .active ∨ e.state = .draining →
        e.waitSet = [] → q.kind = .fl → q.state ≠ .shadow → ExitSpares t id p (fun _ => decide probes) u →
        FlushPieceFailed t e id q.port .timeout u (w.setXmp u.xmp))

/-- R83 to R86, R91: a probe that its timer or a unit that is not ready ends is a fault: a new probe in the same state,
or OFFLINE at 4 faults, which fails the queue (R81; with R109, log 7 and log 18 for a state whose port is READY); an
answer of a unit that is ready records its capacity and the port is READY with its fault count kept. Without a probe
outstanding both are discarded; that the expiry of a probe timer that does not run does nothing is the MODEL'S CHOICE
(log 11). -/
def Obligations.ProbeEnds : Prop :=
  ∀ (s u : State) (c : Instr) (p : PortId) (capacity : Word), StandsAt s u →
    let x := portOf p u
    let y := { x with faults := x.faults + 1 }
    (c = .probeTimerExpiry p ∧ x.probeTimer = true ∨
        c = .mediaStsInquiry p true capacity false ∧ x.outstanding = some .inquiry →
      (x.faults + 1 < 4 → exec c s = .next (finish (((portNoted u).setPorts
        (u.ports.set p (probing x.state y))).setOut { u.out with media := u.out.media ++ probeFrames p }))) ∧
      (4 ≤ x.faults + 1 → ∃ w, exec c s = .next (finish w) ∧ OutOfService p (offline y) u w ∧
        QueueFails p .portOffline (fun _ => True) (fun _ => True) u w ∧ ExitAborts p .portOffline .portOffline u w ∧
        w.out = u.out)) ∧
    (c = .mediaStsInquiry p true capacity true → x.outstanding = some .inquiry →
      exec c s = .next (finish ((portNoted u).setPorts (u.ports.set p
        { x with state := .ready, capacity := capacity, outstanding := none, probeTimer := false })))) ∧
    (∀ check ready, c = .probeTimerExpiry p ∧ x.probeTimer = false ∨
        c = .mediaStsInquiry p check capacity ready ∧ (check = false ∨ x.outstanding ≠ some .inquiry) →
      exec c s = .next (finish u))

/-- R76: a DATA frame of the read outstanding at a READY port is written into its slot once; any other is discarded. -/
def Obligations.MediaDataTaken : Prop :=
  ∀ (s u : State) (p : PortId) (check : Bool) (i : Fin 8) (b : Block), StandsAt s u →
    let x := portOf p u
    let reading := ∃ id dest q, x.state = .ready ∧ x.outstanding = some (.piece id .rd dest) ∧ pieceOf id u = some q ∧
      i.val < q.slots.length
    (∀ id dest q k, check = true → x.state = .ready → x.outstanding = some (.piece id .rd dest) →
      pieceOf id u = some q → q.slots[i.val]? = some k → i.val ∉ x.received →
      exec (.mediaData p check i b) s = .next (finish ((u.setSpa { u.spa with slots := u.spa.slots.set k b }).setPorts
        (u.ports.set p { x with received := x.received ++ [i.val] })))) ∧
    (check = false ∨ ¬reading ∨ i.val ∈ x.received → exec (.mediaData p check i b) s = .next (finish u))

/-- R66, R68, R76, R90: an OK status with no piece at media, with a bad check word, or for a read whose data is not
complete, is discarded. Otherwise the command has ended: a read delivers its first block, or is dropped above the
failure point; a write with verify sends its verify; a verify, a plain write or a flush ends its piece DONE and clears
the fault count, that of a DISCARD piece as well (R91); with offline pending the status is taken first and then the port
enters OFFLINE (R93; log 19, log 25), which fails the rest of the queue (R81) and ends a move from or to it (R109; log
7, log 18). -/
def Obligations.MediaOkTaken : Prop :=
  ∀ (s u : State) (p : PortId) (check : Bool), StandsAt s u →
    let x := portOf p u
    let c := Instr.mediaStsOk p check
    let free := { x with outstanding := none, received := [], pieceTimer := none }
    (check = false ∨ x.state ≠ .ready ∨ x.outstanding = none → exec c s = .next (finish u)) ∧
    (∀ id op dest q, check = true → x.state = .ready → x.outstanding = some (.piece id op dest) → pieceOf id u = some q →
      let complete := op = .rd → ∀ i, i < q.count → i ∈ x.received
      (¬complete → exec c s = .next (finish u)) ∧
      (complete → x.offlinePending ≠ .no → ∃ w n, exec c s = .next (finish w) ∧ n ≤ x.faults ∧
        portOf p w = offline { x with faults := n } ∧ w.mgu.flags = (portNoted u).mgu.flags ∧
        (∀ t, x.offlinePending = .yes (some t) → Answered t .good .none 0 p.val w ∧ w.mgu.exec = .idle) ∧
        TakenBeforeOffline p id op dest q u w) ∧
      (complete → x.offlinePending = .no →
        (∀ k ks t, op = .rd → q.kind = .rd → q.slots = k :: ks → q.owner = .tag t →
          (∀ e f cause, entryOf t u = some e → e.failure = some (f, cause) → q.offset < f) →
          ∃ w, exec c s = .next (finish w) ∧ pieceOf id w = some { q with state := .delivering } ∧
            (∀ p', queueOf p' w = (queueOf p' u).filter (· ≠ id)) ∧ portOf p w = free ∧ w.rqt = u.rqt ∧
            w.ulc = { u.ulc with tx := u.ulc.tx ++
              [.readData id t (q.offset + (q.count - (ks.length + 1))) u.spa.slots[k]] } ∧ SameManagement u w) ∧
        (∀ t e f cause, op = .rd → q.kind = .rd → q.owner = .tag t → entryOf t u = some e → Resolved e →
          e.failure = some (f, cause) → f ≤ q.offset →
          ∃ w, exec c s = .next (finish w) ∧ PieceGone id q w ∧ portOf p w = free ∧
            HeldOrAnswered t { e with notEnded := e.notEnded - 1 } w) ∧
        (op = .rd → q.kind = .rd → q.owner = .discard →
          ∃ w, exec c s = .next (finish w) ∧ PieceGone id q w ∧ w.rqt = u.rqt ∧ w.ulc.tx.length ≤ u.ulc.tx.length ∧
            (q.port = p → portOf p w = { free with faults := 0 })) ∧
        (q.owner = .discard → LastStatus p op dest q ∨ op = .rd ∧ q.kind = .cp ∧ q.shadow = none ∧ q.port = p →
          ∃ w, exec c s = .next (finish w) ∧ PieceGone id q w ∧ w.rqt = u.rqt ∧
            portOf p w = { free with faults := 0 }) ∧
        (op = .wr → q.verify = true → ∃ w, exec c s = .next (finish w) ∧
          pieceOf id w = some (if dest then { q with shadow := q.shadow.map fun sh => { sh with state := .verifying } }
            else { q with state := .verifying }) ∧
          portOf p w = { x with outstanding := some (.piece id .vf dest), received := [],
                                pieceTimer := some (Config.pieceTimeMs u.mgu.settings.timeoutCode) } ∧
          w.out.media = u.out.media ++ [(p, .command .vf
            (if dest then (q.shadow.map (·.start)).getD 0 else q.start) q.count [])] ∧
          w.rqt = u.rqt ∧ w.ulc = u.ulc ∧ w.spa = u.spa ∧ SameManagement u w) ∧
        (∀ t e, dest = false → q.owner = .tag t → q.port = p → q.shadow = none → entryOf t u = some e →
          (Resolved e → (q.kind = .vf ∧ op = .vf ∨ q.kind = .wr ∧ (op = .wr ∧ q.verify = false ∨ op = .vf)) →
            ∃ w, exec c s = .next (finish w) ∧ PieceGone id q w ∧ PieceDone t e q w ∧
              portOf p w = { free with faults := 0 } ∧ SameManagement u w) ∧
          (e.kind = .flush → e.state = .active ∨ e.state = .draining → q.kind = .fl → op = .fl →
            ∃ w, exec c s = .next (finish w) ∧ PieceGone id q w ∧ portOf p w = { free with faults := 0 } ∧
              FlushHeldOrAnswered t { e with
                notEnded := e.notEnded - 1
                flPorts := e.flPorts.map fun y => if y.1 = p then (y.1, .done) else y } w))))

/-- R69, R70, R103: what follows the source phase of a piece with a shadow part, and the destination phase. A CP piece,
and a WR piece that does not wait for the chunk, join the tail of the destination queue; a WR piece with after-chunk YES
over the chunk in flight waits. The good end of a destination write ends a WR piece DONE; that of the CP piece advances
the cursor, sends the pieces that waited for the chunk to their destination queues, and fixes the next chunk with its
blocking set (R101; the blocks named as log 8 reads them, DEDUCED), or, at the length, leaves the context in
SWITCH_PENDING while a dual WRITE or a store operation is in progress (R107). -/
def Obligations.DestinationPhase : Prop :=
  ∀ (s u : State) (p : PortId) (id : PieceId) (op : MediaOp) (dest : Bool) (q : Piece) (sh : Shadow), StandsAt s u →
    let x := portOf p u
    let c := Instr.mediaStsOk p true
    x.state = .ready → x.outstanding = some (.piece id op dest) → x.offlinePending = .no → pieceOf id u = some q →
    q.shadow = some sh → (op = .rd → ∀ i, i < q.count → i ∈ x.received) →
    let sourceEnd := SourceOver op dest q
    let waits := WaitsForChunk q sh u
    let destEnd := dest = true ∧ (op = .wr ∧ q.verify = false ∨ op = .vf)
    (sourceEnd → ¬waits → inService sh.port u →
      ∃ w, exec c s = .next (finish w) ∧
        pieceOf id w = some { q with state := .shadow, shadow := some { sh with state := .queued } } ∧
        (∀ p', queueOf p' w = (queueOf p' u).filter (· ≠ id) ++ if p' = sh.port then [id] else []) ∧
        w.rqt = u.rqt ∧ w.ulc = u.ulc ∧ w.mve = u.mve) ∧
    (sourceEnd → waits →
      ∃ w, exec c s = .next (finish w) ∧
        pieceOf id w = some { q with state := .shadowWait, shadow := some { sh with state := .waiting } } ∧
        (∀ p', queueOf p' w = (queueOf p' u).filter (· ≠ id)) ∧ w.psc.waiting = u.psc.waiting ++ [id] ∧
        w.rqt = u.rqt ∧ w.ulc = u.ulc ∧ w.mve = u.mve) ∧
    (∀ t e, destEnd → q.kind = .wr → q.owner = .tag t → sh.port = p → entryOf t u = some e → Resolved e →
      ∃ w, exec c s = .next (finish w) ∧ PieceGone id q w ∧ PieceDone t e q w ∧ (portOf p w).faults = 0) ∧
    (∀ m ch, destEnd → q.kind = .cp → q.owner = .move → u.mve = some m → m.piece = some id → m.chunk = some ch →
      id ∉ u.psc.waiting →
      (∀ j ∈ u.psc.waiting, ∃ r sj, pieceOf j u = some r ∧ r.shadow = some sj ∧ inService sj.port u) →
      ∃ w m', exec c s = .next (finish w) ∧ PieceGone id q w ∧ w.mve = some m' ∧ m'.cursor = m.cursor + ch.count ∧
        m'.pending = (m.pending ||
          decide (m.length ≤ m.cursor + ch.count ∧ (m.dual ≠ [] ∨ u.mst.op ≠ .idle))) ∧ m'.piece = none ∧
        m'.dual = m.dual ∧ id ∉ m'.shadows ∧
        (m'.chunk = if m.cursor + ch.count < m.length then some ⟨min 8 (m.length - (m.cursor + ch.count)), .held⟩
          else none) ∧
        (m.cursor + ch.count < m.length → ∀ t', t' ∈ m'.blocking ↔ BlocksChunk m' t' w) ∧
        w.psc.waiting = [] ∧
        (∀ j ∈ u.psc.waiting, ∀ r sj, pieceOf j u = some r → r.shadow = some sj →
          pieceOf j w = some { r with state := .shadow, shadow := some { sj with state := .queued } }) ∧
        ∀ p', queueOf p' w = (queueOf p' u).filter (· ≠ id) ++
          u.psc.waiting.filter fun j => (pieceOf j u).any fun r => r.shadow.any fun sj => sj.port = p')

/-- R66, R76, R90: an ERROR status ends the piece at media FAILED at its index, with MEDIA or MEDIA_RANGE by its kind,
and MEDIA for a flush and for the verify of a write; it is no fault. The failure drops the request's pieces that R35
names and lets the others run. With no piece at media, a bad check word, or an index beyond the piece, it is discarded.
The failure of a CP piece of the move and of a destination write of it aborts the move with the LBA of the failing block
(R103, R105) and releases its pieces (R71, R111); the WRITE that owns the destination write takes DONE, also where the
piece is not in the shadow set (R38, R70). With offline pending the port then enters OFFLINE and its queue fails (R81,
R93, R109; log 7, log 18, log 19, log 25), also after an FL piece (R48). -/
def Obligations.MediaErrorTaken : Prop :=
  ∀ (s u : State) (p : PortId) (check : Bool) (k : Fin 8) (kind : MediaError), StandsAt s u →
    let x := portOf p u
    let c := Instr.mediaStsError p check k kind
    let byKind := match kind with
      | .uncorrectable => Cause.media
      | .range => Cause.mediaRange
    (check = false ∨ x.state ≠ .ready ∨ x.outstanding = none → exec c s = .next (finish u)) ∧
    (∀ id op dest q, check = true → x.state = .ready → x.outstanding = some (.piece id op dest) → pieceOf id u = some q →
      (op ≠ .fl → q.count ≤ k.val → exec c s = .next (finish u)) ∧
      (∀ t e, op ≠ .fl → k.val < q.count → x.offlinePending = .no → q.owner = .tag t → q.state ≠ .shadow →
        entryOf t u = some e → Resolved e →
        ∃ w, exec c s = .next (finish w) ∧ PieceGone id q w ∧
          PieceFailed t e id (q.offset + k.val) (if op = .vf ∧ q.kind ≠ .vf then .media else byKind) u w ∧
          w.mve.isSome = u.mve.isSome ∧
          portOf p w = { x with outstanding := none, received := [], pieceTimer := none } ∧ SameManagement u w) ∧
      (∀ t e, op = .fl → x.offlinePending = .no → q.owner = .tag t → q.kind = .fl → q.state ≠ .shadow →
        entryOf t u = some e → e.kind = .flush → e.state = .active ∨ e.state = .draining →
        ∃ w, exec c s = .next (finish w) ∧ PieceGone id q w ∧
          FlushPieceFailed t e id q.port .media u w ∧ w.mve.isSome = u.mve.isSome ∧
          portOf p w = { x with outstanding := none, received := [], pieceTimer := none } ∧ SameManagement u w) ∧
      (∀ m sh, op ≠ .fl → k.val < q.count → x.offlinePending = .no → q.kind = .wr → q.state = .shadow →
        q.shadow = some sh → u.mve = some m → id ∈ m.shadows →
        ∃ w, exec c s = .next (finish w) ∧ PieceGone id q w ∧ w.mve = none ∧
          Answered m.tag .failed (if op = .vf then .media else byKind) 0
            (m.lstart + (sh.start + k.val - m.dstStart)) w ∧
          ShadowsReleased m (fun j _ => j ≠ id) (fun t => q.owner ≠ .tag t) u w ∧
          (∀ t e, q.owner = .tag t → t ≠ m.tag → entryOf t u = some e → Resolved e → e.waitSet = [] →
            (∀ e', entryOf t w = some e' → ∀ i, i < q.count → q.offset + i ∈ e'.done) ∧
            ((∀ j, waitsForMove m t u j = false) → PieceDone t e q w))) ∧
      (∀ t e, op ≠ .fl → k.val < q.count → x.offlinePending = .no → q.kind = .wr → q.state = .shadow →
        q.owner = .tag t → entryOf t u = some e → Resolved e → (∀ m, u.mve = some m → id ∉ m.shadows) →
        ∃ w, exec c s = .next (finish w) ∧ PieceGone id q w ∧ PieceDone t e q w ∧ w.mve.isSome = u.mve.isSome ∧
          portOf p w = { x with outstanding := none, received := [], pieceTimer := none } ∧ SameManagement u w) ∧
      (∀ m sh, op ≠ .fl → k.val < q.count → x.offlinePending = .no → q.kind = .cp → q.owner = .move →
        q.shadow = some sh → u.mve = some m → id ∈ m.shadows → sh.start = m.dstStart + m.cursor →
        ∃ w, exec c s = .next (finish w) ∧ PieceGone id q w ∧ w.mve = none ∧
          Answered m.tag .failed (if op = .vf then .media else byKind) 0 (m.lstart + m.cursor + k.val) w ∧
          w.xmp = { u.xmp with active := settleMap u.xmp.active } ∧
          portOf p w = { x with outstanding := none, received := [], pieceTimer := none } ∧
          w.mgu = u.mgu ∧ w.mst = u.mst ∧ w.svm = u.svm ∧
          ShadowsReleased m (fun j _ => j ≠ id) (fun _ => True) u w) ∧
      (k.val < q.count ∨ op = .fl → x.offlinePending = .no → q.owner = .discard →
        (∀ m, u.mve = some m → id ∉ m.shadows ∧ m.piece ≠ some id) →
        ∃ w, exec c s = .next (finish w) ∧ PieceGone id q w ∧ w.rqt = u.rqt ∧ w.mve = u.mve ∧
          portOf p w = { x with outstanding := none, received := [], pieceTimer := none } ∧ SameManagement u w) ∧
      (k.val < q.count ∨ op = .fl → x.offlinePending ≠ .no → ∃ w, exec c s = .next (finish w) ∧ PieceGone id q w ∧
        portOf p w = offline x ∧ QueueFails p .portOffline (fun _ => True) (fun t => q.owner ≠ .tag t) u w ∧
        (∀ t, x.offlinePending = .yes (some t) → Answered t .good .none 0 p.val w ∧ w.mgu.exec = .idle) ∧
        (∀ t e, op = .fl → q.owner = .tag t → q.kind = .fl → q.state ≠ .shadow → entryOf t u = some e →
          e.kind = .flush → e.state = .active ∨ e.state = .draining → e.waitSet = [] →
          ExitSpares t id p (fun _ => false) u →
          FlushPieceFailed t e id q.port .media u (w.setXmp u.xmp)) ∧
        (∀ m, u.mve = some m → m.srcPort = p ∨ m.dstPort = p → SwitchedOr m q m.cursor (
          match failingLba m id (if op = .fl then 0 else k.val) u with
          | some lba => w.mve = none ∧ w.xmp = { u.xmp with active := settleMap u.xmp.active } ∧
            Answered m.tag .failed (if op = .fl ∨ op = .vf ∧ q.kind ≠ .vf then .media else byKind) 0 lba w
          | none => ExitAnswered m (queueOf p u) .portOffline .portOffline m.cursor u w) u w) ∧
        ∀ t e, op ≠ .fl → q.owner = .tag t → q.state ≠ .shadow → entryOf t u = some e → Resolved e → e.waitSet = [] →
          ExitSpares t id p (failureDrops e (q.offset + k.val)) u →
          PieceFailed t e id (q.offset + k.val) (if op = .vf ∧ q.kind ≠ .vf then .media else byKind) u
            (w.setXmp u.xmp)))

/-! ### The store -/

/-- R129, R131, R133, R134, R136: the good end of a write of a store operation. MODEL'S CHOICE: with no write in
progress the command does nothing (log 11), an UNLOCK that ends MOVE_ACTIVE is answered before a deferred switch (log
19), and a timer that stops keeps the length of its period (log 6). -/
def Obligations.StoreWriteEndsWell : Prop :=
  ∀ (s u : State), StandsAt s u →
    let c := Instr.storeWriteEndGood
    (u.mst.op = .idle → exec c s = .next (finish u)) ∧
    (∀ img tag, u.mst.op = .saving .opening img tag → exec c s = .next (finish (u.setMst { u.mst with
      header := invalidHeader, op := .saving (.row 0) img tag }))) ∧
    (∀ img tag n, u.mst.op = .saving (.row n) img tag → exec c s = .next (finish (u.setMst { u.mst with
      rows := u.mst.rows.set n (imageRow img n)
      op := .saving (if n = 7 then .closing else .row (n + 1)) img tag }))) ∧
    (∀ img tag, u.mst.op = .saving .closing img tag → ∃ w, exec c s = .next (finish w) ∧
      w.mst = { u.mst with
        header := imageHeader img, op := .idle, storeState := .map, lock := u.mst.lock || img.lock
        lastOp := some ⟨if img.lock then .lock else .save, .good, .none⟩ } ∧
      w.mgu = { u.mgu with flags := { u.mgu.flags with store := true } } ∧ w.xmp = u.xmp ∧ w.svm = u.svm ∧
      SameMedia u w ∧
      match tag with
      | some t => Answers t .good .none 0 img.usedCount u w
      | none => w.ulc = u.ulc ∧ w.rqt = u.rqt ∧ w.mve = u.mve) ∧
    (∀ tag, u.mst.op = .wiping tag → ∃ w, exec c s = .next (finish w) ∧ SameMedia u w ∧
      w.mst = { u.mst with
        header := invalidHeader, op := .idle, lock := if u.mve = none then false else u.mst.lock
        lastOp := some (if u.mve = none then ⟨.unlock, .good, .none⟩ else ⟨.unlock, .failed, .moveActive⟩) } ∧
      (u.mve = none →
        (∀ i : Fin 64, w.xmp.active[i] = Extent.empty ∧ w.xmp.staging[i] = Extent.empty) ∧
        w.xmp.generation = u.xmp.generation + 1 ∧ w.xmp.stagingOpen = false ∧
        w.svm = { u.svm with partState := .bare, timer := .stopped } ∧
        w.mgu = { u.mgu with flags := { u.mgu.flags with
          store := true, fence := u.mgu.flags.fence || decide (u.svm.partState = .fenced) } }) ∧
      (u.mve ≠ none → w.xmp = u.xmp ∧ w.svm = u.svm ∧
        w.mgu = { u.mgu with flags := { u.mgu.flags with store := true } }) ∧
      match tag with
      | some t => if u.mve = none then Answers t .good .none 0 0 u w else Answers t .failed .moveActive 0 0 u w
      | none => w.ulc = u.ulc ∧ w.rqt = u.rqt ∧ w.mve = u.mve)

/-- R129, R132, R134, R136: the bad end of a write of a store operation: it fails STORE_FAIL with the detail of the
write; a header write leaves the header unknown within the bound of R132, a row write leaves its row with any content.
DEDUCED (log 1): the bound holds for the header write of an UNLOCK too. MODEL'S CHOICE: with no write in progress the
command does nothing (log 11), and the request is answered before a deferred switch (log 19). -/
def Obligations.StoreWriteEndsBadly : Prop :=
  ∀ (s u : State), StandsAt s u →
    let c := Instr.storeWriteEndBad
    (u.mst.op = .idle → exec c s = .next (finish u)) ∧
    (∀ tag kind detail,
      (∃ step img, u.mst.op = .saving step img tag ∧ kind = (if img.lock then .lock else .save) ∧
        detail = (match step with | .opening => 8 | .row n => n.val | .closing => 9)) ∨
      u.mst.op = .wiping tag ∧ kind = .unlock ∧ detail = 8 →
      ∃ w, exec c s = .next (finish w) ∧
        w.mst.op = .idle ∧ w.mst.lastOp = some ⟨kind, .failed, .storeFail⟩ ∧ w.mst.lock = u.mst.lock ∧
        w.mst.storeState = u.mst.storeState ∧
        w.mgu = { u.mgu with flags := { u.mgu.flags with store := true } } ∧ w.xmp = u.xmp ∧ w.svm = u.svm ∧
        w.psc = u.psc ∧ w.spa = u.spa ∧ w.ports = u.ports ∧ w.out = u.out ∧
        (match u.mst.op with
        | .saving (.row n) _ _ => w.mst.header = u.mst.header ∧ ∀ k : Fin 8, k ≠ n → w.mst.rows[k] = u.mst.rows[k]
        | .saving .opening _ _ | .wiping _ =>
          LeftUnknown headerGood u.mst.header invalidHeader w.mst.header ∧ w.mst.rows = u.mst.rows
        | .saving .closing img _ =>
          LeftUnknown headerGood u.mst.header (imageHeader img) w.mst.header ∧ w.mst.rows = u.mst.rows
        | .idle => False) ∧
        match tag with
        | some t => Answers t .failed .storeFail 0 detail u w
        | none => w.ulc = u.ulc ∧ w.rqt = u.rqt ∧ w.mve = u.mve)

/-- R19, R20, R141: the end of the start-up read: a stored map loads with its generation, settings and lock; an IDENTITY
header gives the identity map and the defaults; any other content leaves the part BARE. A part with a map enters RUN
with a fresh period, or FENCED with a cause present. MODEL'S CHOICE: with no read running the command does nothing (log
11), and an EMPTY record is held with every other field 0; DEDUCED: the upper attribute bits are not held (log 20). -/
def Obligations.StartUpReadEnds : Prop :=
  ∀ (s u : State), StandsAt s u → SupervisionSound u →
    let c := Instr.startUpReadEnd
    let h := u.mst.header.toList
    let identity := headerGood u.mst.header = true ∧ byteAt h 0 = 1
    let stored := fun (m : ExtMap) (set : Settings) =>
      headerGood u.mst.header = true ∧ byteAt h 0 = 2 ∧ (∀ n : Fin 8, rowGood u.mst.rows[n] = true) ∧
      (∀ i : Fin 64, m[i] = normalExtent (storedExtent u.mst.rows i.val)) ∧ (∀ i, ¬RecordFails m i) ∧
      (m.toList.countP fun e => e.used = 1) = (byteAt h 5).toNat ∧ (byteAt h 1).toNat ≤ 1 ∧
      NamesSettings ((byteAt h 2).setWidth 32) ((byteAt h 3).setWidth 32) ((byteAt h 4).setWidth 32) set
    let loaded := fun (m : ExtMap) (g : Half) (set : Settings) (lock : Bool) (st : StoreState) =>
      ∃ w, exec c s = .next (finish w) ∧ SameMedia u w ∧ w.rqt = u.rqt ∧ w.ulc = u.ulc ∧
        (∀ i : Fin 64, w.xmp.active[i] = m[i]) ∧ w.xmp.generation = g ∧ w.xmp.staging = u.xmp.staging ∧
        w.xmp.stagingOpen = u.xmp.stagingOpen ∧
        w.mst = { u.mst with reading := false, lock := lock, storeState := st } ∧
        (st = .invalid → w.mgu = { u.mgu with settings := set } ∧ w.svm = { u.svm with partState := .bare }) ∧
        (st ≠ .invalid → (u.svm.causes.supervision = true ∨ u.svm.causes.pin = true) →
          w.svm = { u.svm with partState := .fenced } ∧
          w.mgu = { u.mgu with settings := set, flags := { u.mgu.flags with fence := true } }) ∧
        (st ≠ .invalid → u.svm.causes = ⟨false, false⟩ → w.mgu = { u.mgu with settings := set } ∧
          w.svm = { (if set.mode = .off then u.svm else periodStarts set u.svm) with partState := .run })
    (u.mst.reading = false → exec c s = .next (finish u)) ∧
    (u.mst.reading = true →
      (identity → ∃ m : ExtMap, loaded m 0 ⟨5, .off, 3⟩ false .identity ∧
        ∀ i : Fin 64, m[i] = if i.val < 4 then
          ⟨1, BitVec.ofNat 8 i.val, BitVec.ofNat 8 i.val, 0, false, false, 0, 4294967295, 0⟩ else Extent.empty) ∧
      (∀ m set, stored m set → loaded m (halfAt h 6) set (decide (byteAt h 1 = 1)) .map) ∧
      (¬identity → (∀ m set, ¬stored m set) → loaded ExtMap.empty 0 ⟨5, .off, 3⟩ false .invalid))

/-- R127, R131, R133, R141, R183: the store that a completed save leaves loads at a start-up as the map, generation,
settings and lock of the save image. -/
def Obligations.SavedMapLoads : Prop :=
  ∀ (m : Mst) (img : SaveImage),
    (∀ i : Fin 64, img.records[i] = normalExtent img.records[i]) → (∀ i, ¬RecordFails img.records i) →
    img.usedCount = (img.records.toList.countP fun e => e.used = 1) →
    m.header = imageHeader img → (∀ n : Fin 8, m.rows[n] = imageRow img n) →
    judgeStore m = .stored img.records img.generation img.settings img.lock

/-! ### The steps that the part takes by itself -/

/-- R10 to R15, R17, R104: the request at the intake head is refused by the part state or by its first bad block, or it
takes its segments and joins the active list, or it waits. Each block of a resolved request lies in a segment that names
its place in the extent that covers it, and the destination place, where R14 makes the block dual. Under a map of the
shape of R5 there is one segment for each extent met and target kind in it, ascending, without gap, from the first block
to the last. -/
def Obligations.IntakeHeadResolves : Prop :=
  ∀ (s u : State), running s = true → settlePrompt s = u →
    let c := Instr.intakeHeadResolution
    (u.svm.partState = .loading ∨ u.rqt.intake = [] → exec c s = .next u) ∧
    (∀ t rest e, u.svm.partState ≠ .loading → u.rqt.intake = t :: rest → entryOf t u = some e →
      let block := fun i => findExtent u.xmp.active e.unit (e.lba.toNat + i)
      let barred := fun i => match block i with
        | none => some Cause.range
        | some x => if x.policy = 0 ∨ x.policy = 1 ∧ e.kind ≠ .write then none
          else some (if x.policy = 1 then .writeProtected else .range)
      let kindAt : Nat → Nat := fun i => match block i, u.mve with
        | some (x : Extent), some (m : Move) =>
          let o := e.lba.toNat + i - x.lstart.toNat
          if e.kind = .write ∧ x.moving = true then
            if o < m.cursor then 1 else if o < m.cursor + (m.chunk.map (·.count)).getD 0 then 2 else 0
          else 0
        | _, _ => 0
      let closed := u.svm.partState = .bare ∨ u.svm.partState = .fenced ∧ e.kind = .write
      (∀ cause detail,
        (u.svm.partState = .bare ∧ cause = .noMap ∧ detail = 0 ∨
          u.svm.partState = .fenced ∧ e.kind = .write ∧ cause = .fenced ∧ detail = 0 ∨
          ¬closed ∧ ∃ i, i < e.count ∧ barred i = some cause ∧ detail = e.lba.toNat + i ∧ ∀ j, j < i → barred j = none) →
        ∃ w, exec c s = .next (finish w) ∧ Answers t .refused cause e.count detail u w ∧ SameMedia u w ∧
          SameManagement u w) ∧
      (¬closed → (∀ i, i < e.count → barred i = none) →
        ∃ gs : List Segment,
          (∀ i x, i < e.count → block i = some x →
            ∃ g ∈ gs, g.offset ≤ i ∧ i < g.offset + g.length ∧ g.port = extentPort x ∧ g.verify = x.verify ∧
              g.start + (i - g.offset) = x.pstart.toNat + (e.lba.toNat + i - x.lstart.toNat) ∧
              (u.mve = none → g.target = .single) ∧
              ∀ m, u.mve = some m →
                let o := e.lba.toNat + i - x.lstart.toNat
                let d := m.dstStart + (o - (i - g.offset))
                g.target = if e.kind = .write ∧ x.moving = true then
                    if o < m.cursor then .dual m.dstPort d
                    else if o < m.cursor + (m.chunk.map (·.count)).getD 0 then .dualAfterChunk m.dstPort d
                    else .single
                  else .single) ∧
          ((∀ j, ¬RecordFails u.xmp.active j) →
            (∀ k g, gs[k]? = some g → 0 < g.length ∧ g.offset = ((gs.take k).map (·.length)).sum) ∧
            (gs.map (·.length)).sum = e.count ∧
            ∀ i, i + 1 < e.count →
              ((∃ g ∈ gs, g.offset = i + 1) ↔ block i ≠ block (i + 1) ∨ kindAt i ≠ kindAt (i + 1))) ∧
          (freeSegments u < gs.length → exec c s = .next u) ∧
          (gs.length ≤ freeSegments u → exec c s = .next (finish ((u.setRqt { u.rqt with
              entries := u.rqt.entries.set t (some { e with state := .active, segments := gs, cutSeg := 0, cutOff := 0 })
              intake := leaveSet t u.rqt.intake, active := u.rqt.active ++ [t] }).setMve
            (u.mve.map fun m => if ∃ g ∈ gs, g.target ≠ .single then { m with dual := joinSet t m.dual } else m))))))

/-- R54 to R57, R31, R105: the cutter cuts one piece from the head of the active list, as the segment at its cut cursor
gives it, while more than 4 records are free and no other claim waits; on a port out of service it ends at its cut,
which drops the request's pieces that R35 names and lets the others run. -/
def Obligations.CutterCuts : Prop :=
  ∀ (s u : State), running s = true → settlePrompt s = u →
    let free := (allPieces.countP fun j => (pieceOf j u).isNone)
    let claimed := u.rqt.flushing ≠ [] ∨ ∃ m n, u.mve = some m ∧ m.chunk = some ⟨n, .claim⟩
    (free ≤ 4 ∨ claimed ∨ u.rqt.active = [] → exec .cutEvent s = .next u) ∧
    (∀ t rest e g id, 4 < free → ¬claimed → u.rqt.active = t :: rest → entryOf t u = some e → Resolved e →
      e.segments[e.cutSeg]? = some g → cuttable e = true → LowestFree id u →
      let n := min 8 (min (g.length - e.cutOff) (cutLimit e - (g.offset + e.cutOff)))
      let lba := e.lba.toNat + g.offset + e.cutOff
      let e' := { e with
        notEnded := e.notEnded + 1
        cutSeg := if e.cutOff + n = g.length then e.cutSeg + 1 else e.cutSeg
        cutOff := if e.cutOff + n = g.length then 0 else e.cutOff + n }
      ∃ w q, exec .cutEvent s = .next (finish w) ∧
        q.owner = .tag t ∧ q.port = g.port ∧ q.start = g.start + e.cutOff ∧ q.count = n ∧
        q.offset = g.offset + e.cutOff ∧ q.verify = g.verify ∧ q.slots = [] ∧ q.filled = [] ∧ q.state = .queued ∧
        q.kind = (if e.kind = .read then .rd else if e.kind = .write then .wr else .vf) ∧
        (∀ m a b, u.mve = some m → e.kind = .write → e.unit = m.unit → m.lstart ≤ lba → lba + n ≤ m.lstart + m.length →
          t ∈ m.dual →
          (g.target = .dual a b → q.shadow = some ⟨a, b + e.cutOff, false, .pending⟩) ∧
          (g.target = .dualAfterChunk a b → q.shadow = some ⟨a, b + e.cutOff, true, .pending⟩)) ∧
        (g.target = .single ∨ e.kind ≠ .write ∨ u.mve = none ∨ (∃ m, u.mve = some m ∧ t ∉ m.dual) → q.shadow = none) ∧
        (inService g.port u → pieceOf id w = some q ∧ queueOf g.port w = queueOf g.port u ++ [id] ∧
          entryOf t w = some e' ∧ w.rqt.active = (if cuttable e' then u.rqt.active else leaveSet t u.rqt.active) ∧
          (q.shadow.isSome → ∃ m, w.mve = some m ∧ id ∈ m.shadows)) ∧
        (¬inService g.port u → PieceGone id q w ∧ PieceFailed t e' id q.offset (serviceCause g.port u) u w ∧
          w.mve.isSome = u.mve.isSome))

/-- R18, R47, R48: a FLUSH with an empty wait set leaves BARRIER in order of arrival: refused NO_MAP in BARE, GOOD with
no port to flush, or ACTIVE with the ports of its unit uncut, ascending. Its FL pieces are cut one port at a time; one
cut on a port out of service fails at its cut. MODEL'S CHOICE (log 11): either command does nothing while its step
cannot be taken. -/
def Obligations.FlushSteps : Prop :=
  ∀ (s : State), running s = true →
    (s.svm.partState = .loading ∨ (∀ t ∈ s.rqt.barrier, ∀ e, entryOf t s = some e → e.waitSet ≠ []) →
      exec .flushResolution s = .next s) ∧
    (∀ t before after e, s.svm.partState ≠ .loading → s.rqt.barrier = before ++ t :: after →
      (∀ t' ∈ before, ∀ e', entryOf t' s = some e' → e'.waitSet ≠ []) → entryOf t s = some e → e.waitSet = [] →
      let ports := allPorts.filter fun p =>
        (∃ i : Fin 64, s.xmp.active[i].used = 1 ∧ s.xmp.active[i].unit = e.unit ∧ extentPort s.xmp.active[i] = p) ∨
          (∃ m, s.mve = some m ∧ m.unit = e.unit ∧ m.dstPort = p)
      (∀ cause o, s.svm.partState = .bare ∧ o = .refused ∧ cause = .noMap ∨
          s.svm.partState ≠ .bare ∧ ports = [] ∧ o = .good ∧ cause = .none →
        ∃ w, exec .flushResolution s = .next (finish w) ∧ Answers t o cause 0 0 s w ∧ SameMedia s w ∧
          SameManagement s w) ∧
      (s.svm.partState ≠ .bare → ports ≠ [] → exec .flushResolution s = .next (finish (s.setRqt { s.rqt with
        entries := s.rqt.entries.set t (some { e with state := .active, flPorts := ports.map fun p => (p, .uncut) })
        barrier := leaveSet t s.rqt.barrier, flushing := s.rqt.flushing ++ [t] })))) ∧
    (s.rqt.flushing = [] ∨ (∀ id, pieceOf id s ≠ none) → exec .flPieceCut s = .next s) ∧
    (∀ t rest e p id, s.rqt.flushing = t :: rest → entryOf t s = some e → e.kind = .flush → e.state = .active →
      (e.flPorts.find? fun x => x.2 = .uncut) = some (p, .uncut) → LowestFree id s →
      let q : Piece := ⟨.tag t, .fl, p, 0, 1, 0, false, [], .queued, [], none, none⟩
      let e' := { e with
        notEnded := e.notEnded + 1, flPorts := e.flPorts.map fun x => if x.1 = p then (x.1, .cut) else x }
      ∃ w, exec .flPieceCut s = .next (finish w) ∧
        (inService p s → pieceOf id w = some q ∧ queueOf p w = queueOf p s ++ [id] ∧ entryOf t w = some e' ∧
          (w.rqt.flushing =
            if e'.flPorts.any (fun x => decide (x.2 = .uncut)) then s.rqt.flushing else leaveSet t s.rqt.flushing) ∧
          w.ulc = s.ulc ∧ w.spa = s.spa ∧ w.ports = s.ports ∧ SameManagement s w) ∧
        (¬inService p s → PieceGone id q w ∧ FlushHeldOrAnswered t (flushFailed t none p (serviceCause p s) s e) w ∧
          PiecesDropped t none (flushDrops e) s w ∧ PiecesRunOn t none (flushDrops e) s w ∧
          (e.failure = none → t ∉ w.rqt.flushing) ∧ SameManagement s w))

/-- R60 to R63: SPA grants the reserve holder alone, or the first claim in rotating order that fits: the piece takes the
front of the free list, the pointer moves, the counts of the ports passed over rise to at most 4, those that reach 4
join the reserve order in rotating order from the pointer, behind those that wait in it and keep their places, and a
write goes to FILLING with its GRANT recorded and sent. DEDUCED (log 12): a port that is passed over again at 4 takes
the reserve as well. -/
def Obligations.SlotsGranted : Prop :=
  ∀ (s : State), running s = true →
    let room := s.spa.free.length
    let tooBig := fun p => ∀ n, claimOf p s = some n → room < n
    ((∃ h rest, s.spa.reserve = h :: rest ∧ tooBig h) ∨ s.spa.reserve = [] ∧ (∀ p, tooBig p) →
      exec .slotGrant s = .next s) ∧
    (∀ p n id q, claimOf p s = some n → n ≤ room → headOf p s = some (id, q) →
      (∃ rest, s.spa.reserve = p :: rest) ∨ s.spa.reserve = [] ∧ (∃ before after,
        rotation s.spa.pointer = before ++ p :: after ∧ ∀ p' ∈ before, tooBig p') →
      let passed := fun p' => p' ≠ p ∧ (claimOf p' s).any (room - n < ·) = true
      ∃ w, exec .slotGrant s = .next (finish w) ∧ w.spa.free = s.spa.free.drop n ∧ w.spa.pointer = p ∧
        w.spa.passOver[p] = 0 ∧
        (∀ p', passed p' → w.spa.passOver[p'] = min 4 (s.spa.passOver[p'] + 1)) ∧
        (∀ p', p' ≠ p → ¬passed p' → w.spa.passOver[p'] = s.spa.passOver[p']) ∧
        -- the ports in the reserve order keep their places; those that this grant leaves at 4 join in rotating order
        w.spa.reserve = s.spa.reserve.filter (· ≠ p) ++
          (rotation p).filter (fun p' => decide (passed p' ∧ w.spa.passOver[p'] = 4 ∧ p' ∉ s.spa.reserve)) ∧
        w.spa.slots = s.spa.slots ∧ w.ports = s.ports ∧ w.rqt = s.rqt ∧ w.mve = s.mve ∧ SameManagement s w ∧
        (∀ id', id' ≠ id → pieceOf id' w = pieceOf id' s) ∧
        (q.kind ≠ .wr → w.ulc = s.ulc ∧ pieceOf id w = some { q with slots := s.spa.free.take n }) ∧
        (∀ t, q.kind = .wr → q.owner = .tag t →
          pieceOf id w = some { q with slots := s.spa.free.take n, state := .filling, filled := [] } ∧
          w.ulc = { s.ulc with
            grants := s.ulc.grants ++ [⟨t, q.offset, q.count, .piece id⟩]
            tx := s.ulc.tx ++ [.grant t q.offset q.count] }))

/-- R100 to R102, R69: a HELD chunk with an empty blocking set goes to CLAIM; in CLAIM, with no FLUSH waiting, MVE takes
the lowest free record and cuts the CP piece of the chunk. MODEL'S CHOICE (log 11): either command does nothing while
its step cannot be taken: the context IDLE or without a chunk in flight, the chunk in another phase, a tag in the
blocking set, a FLUSH waiting, or no record free. -/
def Obligations.ChunkSteps : Prop :=
  ∀ (s : State), running s = true →
    ((∀ m ch, s.mve = some m → m.chunk = some ch → ch.phase = .cut) →
      exec .blockingSetEmpties s = .next s ∧ exec .cpPieceCut s = .next s) ∧
    (∀ m n, s.mve = some m → m.chunk = some ⟨n, .held⟩ →
      exec .cpPieceCut s = .next s ∧
      (m.blocking ≠ [] → exec .blockingSetEmpties s = .next s) ∧
      (m.blocking = [] → exec .blockingSetEmpties s = .next (finish (s.setMve
        (some { m with chunk := some ⟨n, .claim⟩ }))))) ∧
    (∀ m n, s.mve = some m → m.chunk = some ⟨n, .claim⟩ →
      exec .blockingSetEmpties s = .next s ∧
      (s.rqt.flushing ≠ [] ∨ (∀ id, pieceOf id s ≠ none) → exec .cpPieceCut s = .next s) ∧
      (∀ id, s.rqt.flushing = [] → LowestFree id s → inService m.srcPort s →
        exec .cpPieceCut s = .next (finish ((s.setMve (some { m with
            chunk := some ⟨n, .cut⟩, piece := some id, shadows := joinSet id m.shadows })).setPsc
          { s.psc with
            pieces := s.psc.pieces.set id (some ⟨.move, .cp, m.srcPort, m.srcStart + m.cursor, n, m.cursor, m.verify,
              [], .queued, [], some ⟨m.dstPort, m.dstStart + m.cursor, false, .pending⟩, none⟩)
            queues := s.psc.queues.set m.srcPort (queueOf m.srcPort s ++ [id]) }))))

/-- R106, R107: the switch is taken when the cursor is at the length, the dual set is empty and no store operation runs:
the extent lies at its destination, NORMAL, the generation rises, and the MOVE completes GOOD. Otherwise it waits, and
the command does nothing, without a move as well (MODEL'S CHOICE, log 11). DEDUCED from R93, R97 and R103 (log 25): with
offline pending, the last DONE of the copy is taken first, with the switch, and then the port enters OFFLINE. -/
def Obligations.MoveSwitches : Prop :=
  ∀ (s : State), running s = true →
    (s.mve = none ∨ (∃ m, s.mve = some m ∧ (m.cursor ≠ m.length ∨ m.dual ≠ [])) ∨ s.mst.op ≠ .idle →
      exec .moveSwitch s = .next s) ∧
    (∀ m, s.mve = some m → m.cursor = m.length → m.dual = [] → s.mst.op = .idle →
      ∃ w, exec .moveSwitch s = .next (finish w) ∧ Answered m.tag .good .none 0 0 w ∧ w.mve = none ∧
        w.xmp.generation = s.xmp.generation + 1 ∧
        (∀ i : Fin 64, w.xmp.active[i] = if s.xmp.active[i].moving then { s.xmp.active[i] with
            port := BitVec.ofNat 8 m.dstPort, pstart := BitVec.ofNat 32 m.dstStart, moving := false }
          else s.xmp.active[i]) ∧
        w.xmp.staging = s.xmp.staging ∧ w.xmp.stagingOpen = s.xmp.stagingOpen ∧ w.mgu = s.mgu ∧ w.mst = s.mst ∧
        w.svm = s.svm ∧ SameMedia s w) ∧
    (∀ u p id op q m ch, StandsAt s u →
      let x := portOf p u
      x.state = .ready → x.outstanding = some (.piece id op true) → x.offlinePending ≠ .no → pieceOf id u = some q →
      q.kind = .cp → q.owner = .move → op = .wr ∧ q.verify = false ∨ op = .vf → u.mve = some m → m.chunk = some ch →
      m.cursor + ch.count = m.length → m.dual = [] → u.mst.op = .idle → u.psc.waiting = [] →
      ∃ w, exec (.mediaStsOk p true) s = .next (finish w) ∧ PieceGone id q w ∧
        Answered m.tag .good .none 0 0 w ∧ w.mve = none ∧ w.xmp.generation = u.xmp.generation + 1 ∧
        (∀ i : Fin 64, w.xmp.active[i] = if u.xmp.active[i].moving then { u.xmp.active[i] with
            port := BitVec.ofNat 8 m.dstPort, pstart := BitVec.ofNat 32 m.dstStart, moving := false }
          else u.xmp.active[i]) ∧
        (portOf p w).state = .offline)

/-! ### What every event brings with it -/

/-- R59: the head of a READY port with no command outstanding and no offline pending is taken: its command is sent and
timed, or it waits for slots or for data. No other port is served. -/
def Obligations.HeadIsServed : Prop :=
  ∀ (s : State) (p : PortId),
    let x := portOf p s
    (x.state ≠ .ready ∨ x.outstanding ≠ none ∨ x.offlinePending ≠ .no ∨ headOf p s = none → serveHead s p = s) ∧
    (∀ id q, x.state = .ready → x.outstanding = none → x.offlinePending = .no → headOf p s = some (id, q) →
      let served := fun (op : MediaOp) (dest : Bool) (q' : Piece) (pba : Nat) (data : List Block) =>
        ((s.setPsc { s.psc with pieces := s.psc.pieces.set id (some q') }).setPorts (s.ports.set p { x with
          outstanding := some (.piece id op dest), received := []
          pieceTimer := some (Config.pieceTimeMs s.mgu.settings.timeoutCode) })).setOut { s.out with
            media := s.out.media ++ [(p, .command op pba q.count data)] }
      (∀ op, q.state = .queued → (q.kind = .vf ∧ op = .vf ∨ q.kind = .fl ∧ op = .fl ∨
          (q.kind = .rd ∨ q.kind = .cp) ∧ q.slots ≠ [] ∧ op = .rd) →
        serveHead s p = served op false { q with state := .atMedia } q.start []) ∧
      (q.state = .filling → (∀ i, i < q.count → i ∈ q.filled) →
        serveHead s p = served .wr false { q with state := .atMedia } q.start (q.slots.map fun k => s.spa.slots[k])) ∧
      (∀ sh, q.state = .shadow → q.shadow = some sh → sh.state = .queued →
        serveHead s p = served .wr true { q with shadow := some { sh with state := .atMedia } } sh.start
          (q.slots.map fun k => s.spa.slots[k])) ∧
      (q.state = .queued ∧ (q.kind = .wr ∨ (q.kind = .rd ∨ q.kind = .cp) ∧ q.slots = []) ∨
          q.state = .filling ∧ (∃ i, i < q.count ∧ i ∉ q.filled) → serveHead s p = s)) ∧
    finish s = [0, 1, 2, 3].foldl serveHead (refreshBlocking s)

/-- R59, R101: what `finish` may change: the blocking set keeps the tags that still block, and heads of READY ports have
their commands sent; everything else stays. MODEL'S CHOICE: both happen at the end of each event (log 10), and blocks
over the chunk are named by unit and LBA (log 8, DEDUCED). -/
def Obligations.FinishFootprint : Prop :=
  ∀ (s : State),
    let t := finish s
    t.pending = s.pending ∧ t.pins = s.pins ∧ t.ulc = s.ulc ∧ t.rqt = s.rqt ∧ t.xmp = s.xmp ∧ t.spa = s.spa ∧
    t.mgu = s.mgu ∧ t.mst = s.mst ∧ t.svm = s.svm ∧ t.draws = s.draws ∧ t.out.sent = s.out.sent ∧
    (∃ l, t.out.media = s.out.media ++ l ∧ ∀ x ∈ l, (portOf x.1 s).state = .ready ∧
      ∃ op pba n data, x.2 = .command op pba n data) ∧
    t.psc.queues = s.psc.queues ∧ t.psc.waiting = s.psc.waiting ∧
    (∀ id, (pieceOf id t).map (fun q => (q.owner, q.kind, q.port, q.start, q.count, q.offset, q.verify, q.slots,
        q.filled, q.failure)) =
      (pieceOf id s).map (fun q => (q.owner, q.kind, q.port, q.start, q.count, q.offset, q.verify, q.slots, q.filled,
        q.failure))) ∧
    (∀ p, portOf p t = portOf p s ∨ (portOf p s).state = .ready ∧ (portOf p s).outstanding = none ∧
      (portOf p s).offlinePending = .no ∧ ∃ id op dest, portOf p t = { portOf p s with
        outstanding := some (.piece id op dest), received := []
        pieceTimer := some (Config.pieceTimeMs s.mgu.settings.timeoutCode) }) ∧
    (s.mve = none → t.mve = none) ∧
    (∀ m, s.mve = some m → ∃ m', t.mve = some m' ∧ m' = { m with blocking := m'.blocking } ∧
      ∀ t', t' ∈ m'.blocking ↔ t' ∈ m.blocking ∧ BlocksChunk m t' s)

/-! ### Records, counts and invariants -/

/-- R33: the count remaining is the count less the longest run of offsets 0, 1, 2 and onward in the done set. -/
def Obligations.RemainingIsBeyondPrefix : Prop :=
  ∀ (e : Entry), ∃ n, n ≤ e.count ∧ (∀ k, k < n → k ∈ e.done) ∧ (n < e.count → n ∉ e.done) ∧
    remainingOf e = e.count - n

/-- R182: the places and the codes of the fields of the status record and of the identify record; every other byte is
0. -/
def Obligations.RecordsAsLaidOut : Prop :=
  ∀ (s : State),
    let b := (statusRecord s).toList
    let i := (identifyRecord s).toList
    b.length = 512 ∧ i.length = 512 ∧
    byteAt b 0 = (match s.svm.partState with | .loading => 0 | .bare => 1 | .run => 2 | .fenced => 3) ∧
    byteAt b 1 = (match s.mgu.startCause with | .power => 0 | .pin => 1 | .restart => 2) ∧
    (byteAt b 2).toNat = (if s.svm.causes.supervision then 1 else 0) + (if s.svm.causes.pin then 2 else 0) ∧
    byteAt b 3 = (match s.mgu.settings.mode with | .off => 0 | .timeout => 1 | .window => 2) ∧
    (byteAt b 4).toNat = s.mgu.settings.periodCode.val ∧
    (byteAt b 5).toNat = (if s.svm.lapse then 1 else 0) ∧
    (byteAt b 6).toNat = (if s.mgu.flags.start then 1 else 0) + (if s.mgu.flags.port then 2 else 0) +
      (if s.mgu.flags.store then 4 else 0) + (if s.mgu.flags.link then 8 else 0) +
      (if s.mgu.flags.fence then 16 else 0) ∧
    (byteAt b 7).toNat = s.mgu.settings.timeoutCode.val ∧ (byteAt b 8).toNat = (if s.xmp.stagingOpen then 1 else 0) ∧
    (byteAt b 9).toNat = (if s.mst.lock then 1 else 0) ∧ halfAt b 10 = s.xmp.generation ∧
    (∀ p : PortId, byteAt b (16 + 8 * p.val) = (match (portOf p s).state with
        | .down => 0 | .probing => 1 | .ready => 2 | .recovering => 3 | .offline => 4) ∧
      byteAt b (17 + 8 * p.val) = BitVec.ofNat 8 (portOf p s).faults ∧
      wordAt b (20 + 8 * p.val) = (portOf p s).capacity ∧ wordAt i (12 + 4 * p.val) = (portOf p s).capacity) ∧
    (∀ k ∈ [12, 13, 14, 15, 18, 19, 26, 27, 34, 35, 42, 43, 51], byteAt b k = 0) ∧
    (s.mve = none → ∀ k, 48 ≤ k → k < 64 → byteAt b k = 0) ∧
    (∀ m, s.mve = some m → byteAt b 48 = (if m.pending then 2 else 1) ∧ byteAt b 49 = m.unit ∧
      (byteAt b 50).toNat = m.dstPort.val ∧ wordAt b 52 = BitVec.ofNat 32 m.lstart ∧
      wordAt b 56 = BitVec.ofNat 32 m.dstStart ∧ wordAt b 60 = BitVec.ofNat 32 m.cursor) ∧
    byteAt b 64 = (match s.mst.storeState with | .invalid => 0 | .identity => 1 | .map => 2) ∧
    byteAt b 65 = (if s.mst.op = .idle then 0 else 1) ∧
    (s.mst.lastOp = none → byteAt b 66 = 0 ∧ byteAt b 67 = 0 ∧ byteAt b 68 = 0) ∧
    (∀ o, s.mst.lastOp = some o →
      byteAt b 66 = (match o.kind with | .save => 1 | .lock => 2 | .unlock => 3) ∧
      byteAt b 67 = (match o.outcome with | .good => 0 | .refused => 1 | .failed => 2 | .cancelled => 3) ∧
      byteAt b 68 = (match o.cause with
        | .none => 0 | .badUnit => 1 | .badKind => 2 | .badParam => 3 | .noMap => 4 | .range => 5 | .writeProtected => 6
        | .fenced => 7 | .portOffline => 8 | .portDown => 9 | .media => 10 | .mediaRange => 11 | .timeout => 12
        | .dataTimeout => 13 | .notOpen => 14 | .invalidMap => 15 | .moveActive => 16 | .saveActive => 17 | .locked => 18
        | .overlap => 19 | .storeFail => 20 | .supervised => 21)) ∧
    (∀ k, 69 ≤ k → byteAt b k = 0) ∧
    i.take 12 = [4, 1, 0, 2, 16, 64, 96, 48, 32, 4, 0, 1] ∧ ∀ k, 28 ≤ k → byteAt i k = 0

/-- R91, R140, R144, R145, R152, R115: the ports, supervision and staging stay sound through every step. -/
def Obligations.StepKeepsSoundness : Prop :=
  ∀ (s t : State), PortsSound s ∧ SupervisionSound s ∧ StagingSound s → step s = .next t →
    PortsSound t ∧ SupervisionSound t ∧ StagingSound t

/-- R95, R140, R144, R115: they are sound right after the first start-up. -/
def Obligations.SoundAtReset : Prop :=
  PortsSound State.reset ∧ SupervisionSound State.reset ∧ StagingSound State.reset
end

