-- ==== Sys2Proof/Laws/State.lean ====
section
/-! SUPPORT. Each field of a state in which one block has been replaced. -/

namespace Sys2Proof.Machine.State

@[simp] theorem setPending_pending (x : List Instr) (s : State) : (s.setPending x).pending = x := rfl
@[simp] theorem setPending_pins (x : List Instr) (s : State) : (s.setPending x).pins = s.pins := rfl
@[simp] theorem setPending_ulc (x : List Instr) (s : State) : (s.setPending x).ulc = s.ulc := rfl
@[simp] theorem setPending_rqt (x : List Instr) (s : State) : (s.setPending x).rqt = s.rqt := rfl
@[simp] theorem setPending_xmp (x : List Instr) (s : State) : (s.setPending x).xmp = s.xmp := rfl
@[simp] theorem setPending_psc (x : List Instr) (s : State) : (s.setPending x).psc = s.psc := rfl
@[simp] theorem setPending_spa (x : List Instr) (s : State) : (s.setPending x).spa = s.spa := rfl
@[simp] theorem setPending_ports (x : List Instr) (s : State) : (s.setPending x).ports = s.ports := rfl
@[simp] theorem setPending_mve (x : List Instr) (s : State) : (s.setPending x).mve = s.mve := rfl
@[simp] theorem setPending_mgu (x : List Instr) (s : State) : (s.setPending x).mgu = s.mgu := rfl
@[simp] theorem setPending_mst (x : List Instr) (s : State) : (s.setPending x).mst = s.mst := rfl
@[simp] theorem setPending_svm (x : List Instr) (s : State) : (s.setPending x).svm = s.svm := rfl
@[simp] theorem setPending_out (x : List Instr) (s : State) : (s.setPending x).out = s.out := rfl
@[simp] theorem setPending_draws (x : List Instr) (s : State) : (s.setPending x).draws = s.draws := rfl

@[simp] theorem setPins_pending (x : Pins) (s : State) : (s.setPins x).pending = s.pending := rfl
@[simp] theorem setPins_pins (x : Pins) (s : State) : (s.setPins x).pins = x := rfl
@[simp] theorem setPins_ulc (x : Pins) (s : State) : (s.setPins x).ulc = s.ulc := rfl
@[simp] theorem setPins_rqt (x : Pins) (s : State) : (s.setPins x).rqt = s.rqt := rfl
@[simp] theorem setPins_xmp (x : Pins) (s : State) : (s.setPins x).xmp = s.xmp := rfl
@[simp] theorem setPins_psc (x : Pins) (s : State) : (s.setPins x).psc = s.psc := rfl
@[simp] theorem setPins_spa (x : Pins) (s : State) : (s.setPins x).spa = s.spa := rfl
@[simp] theorem setPins_ports (x : Pins) (s : State) : (s.setPins x).ports = s.ports := rfl
@[simp] theorem setPins_mve (x : Pins) (s : State) : (s.setPins x).mve = s.mve := rfl
@[simp] theorem setPins_mgu (x : Pins) (s : State) : (s.setPins x).mgu = s.mgu := rfl
@[simp] theorem setPins_mst (x : Pins) (s : State) : (s.setPins x).mst = s.mst := rfl
@[simp] theorem setPins_svm (x : Pins) (s : State) : (s.setPins x).svm = s.svm := rfl
@[simp] theorem setPins_out (x : Pins) (s : State) : (s.setPins x).out = s.out := rfl
@[simp] theorem setPins_draws (x : Pins) (s : State) : (s.setPins x).draws = s.draws := rfl

@[simp] theorem setUlc_pending (x : Ulc) (s : State) : (s.setUlc x).pending = s.pending := rfl
@[simp] theorem setUlc_pins (x : Ulc) (s : State) : (s.setUlc x).pins = s.pins := rfl
@[simp] theorem setUlc_ulc (x : Ulc) (s : State) : (s.setUlc x).ulc = x := rfl
@[simp] theorem setUlc_rqt (x : Ulc) (s : State) : (s.setUlc x).rqt = s.rqt := rfl
@[simp] theorem setUlc_xmp (x : Ulc) (s : State) : (s.setUlc x).xmp = s.xmp := rfl
@[simp] theorem setUlc_psc (x : Ulc) (s : State) : (s.setUlc x).psc = s.psc := rfl
@[simp] theorem setUlc_spa (x : Ulc) (s : State) : (s.setUlc x).spa = s.spa := rfl
@[simp] theorem setUlc_ports (x : Ulc) (s : State) : (s.setUlc x).ports = s.ports := rfl
@[simp] theorem setUlc_mve (x : Ulc) (s : State) : (s.setUlc x).mve = s.mve := rfl
@[simp] theorem setUlc_mgu (x : Ulc) (s : State) : (s.setUlc x).mgu = s.mgu := rfl
@[simp] theorem setUlc_mst (x : Ulc) (s : State) : (s.setUlc x).mst = s.mst := rfl
@[simp] theorem setUlc_svm (x : Ulc) (s : State) : (s.setUlc x).svm = s.svm := rfl
@[simp] theorem setUlc_out (x : Ulc) (s : State) : (s.setUlc x).out = s.out := rfl
@[simp] theorem setUlc_draws (x : Ulc) (s : State) : (s.setUlc x).draws = s.draws := rfl

@[simp] theorem setRqt_pending (x : Rqt) (s : State) : (s.setRqt x).pending = s.pending := rfl
@[simp] theorem setRqt_pins (x : Rqt) (s : State) : (s.setRqt x).pins = s.pins := rfl
@[simp] theorem setRqt_ulc (x : Rqt) (s : State) : (s.setRqt x).ulc = s.ulc := rfl
@[simp] theorem setRqt_rqt (x : Rqt) (s : State) : (s.setRqt x).rqt = x := rfl
@[simp] theorem setRqt_xmp (x : Rqt) (s : State) : (s.setRqt x).xmp = s.xmp := rfl
@[simp] theorem setRqt_psc (x : Rqt) (s : State) : (s.setRqt x).psc = s.psc := rfl
@[simp] theorem setRqt_spa (x : Rqt) (s : State) : (s.setRqt x).spa = s.spa := rfl
@[simp] theorem setRqt_ports (x : Rqt) (s : State) : (s.setRqt x).ports = s.ports := rfl
@[simp] theorem setRqt_mve (x : Rqt) (s : State) : (s.setRqt x).mve = s.mve := rfl
@[simp] theorem setRqt_mgu (x : Rqt) (s : State) : (s.setRqt x).mgu = s.mgu := rfl
@[simp] theorem setRqt_mst (x : Rqt) (s : State) : (s.setRqt x).mst = s.mst := rfl
@[simp] theorem setRqt_svm (x : Rqt) (s : State) : (s.setRqt x).svm = s.svm := rfl
@[simp] theorem setRqt_out (x : Rqt) (s : State) : (s.setRqt x).out = s.out := rfl
@[simp] theorem setRqt_draws (x : Rqt) (s : State) : (s.setRqt x).draws = s.draws := rfl

@[simp] theorem setXmp_pending (x : Xmp) (s : State) : (s.setXmp x).pending = s.pending := rfl
@[simp] theorem setXmp_pins (x : Xmp) (s : State) : (s.setXmp x).pins = s.pins := rfl
@[simp] theorem setXmp_ulc (x : Xmp) (s : State) : (s.setXmp x).ulc = s.ulc := rfl
@[simp] theorem setXmp_rqt (x : Xmp) (s : State) : (s.setXmp x).rqt = s.rqt := rfl
@[simp] theorem setXmp_xmp (x : Xmp) (s : State) : (s.setXmp x).xmp = x := rfl
@[simp] theorem setXmp_psc (x : Xmp) (s : State) : (s.setXmp x).psc = s.psc := rfl
@[simp] theorem setXmp_spa (x : Xmp) (s : State) : (s.setXmp x).spa = s.spa := rfl
@[simp] theorem setXmp_ports (x : Xmp) (s : State) : (s.setXmp x).ports = s.ports := rfl
@[simp] theorem setXmp_mve (x : Xmp) (s : State) : (s.setXmp x).mve = s.mve := rfl
@[simp] theorem setXmp_mgu (x : Xmp) (s : State) : (s.setXmp x).mgu = s.mgu := rfl
@[simp] theorem setXmp_mst (x : Xmp) (s : State) : (s.setXmp x).mst = s.mst := rfl
@[simp] theorem setXmp_svm (x : Xmp) (s : State) : (s.setXmp x).svm = s.svm := rfl
@[simp] theorem setXmp_out (x : Xmp) (s : State) : (s.setXmp x).out = s.out := rfl
@[simp] theorem setXmp_draws (x : Xmp) (s : State) : (s.setXmp x).draws = s.draws := rfl

@[simp] theorem setPsc_pending (x : Psc) (s : State) : (s.setPsc x).pending = s.pending := rfl
@[simp] theorem setPsc_pins (x : Psc) (s : State) : (s.setPsc x).pins = s.pins := rfl
@[simp] theorem setPsc_ulc (x : Psc) (s : State) : (s.setPsc x).ulc = s.ulc := rfl
@[simp] theorem setPsc_rqt (x : Psc) (s : State) : (s.setPsc x).rqt = s.rqt := rfl
@[simp] theorem setPsc_xmp (x : Psc) (s : State) : (s.setPsc x).xmp = s.xmp := rfl
@[simp] theorem setPsc_psc (x : Psc) (s : State) : (s.setPsc x).psc = x := rfl
@[simp] theorem setPsc_spa (x : Psc) (s : State) : (s.setPsc x).spa = s.spa := rfl
@[simp] theorem setPsc_ports (x : Psc) (s : State) : (s.setPsc x).ports = s.ports := rfl
@[simp] theorem setPsc_mve (x : Psc) (s : State) : (s.setPsc x).mve = s.mve := rfl
@[simp] theorem setPsc_mgu (x : Psc) (s : State) : (s.setPsc x).mgu = s.mgu := rfl
@[simp] theorem setPsc_mst (x : Psc) (s : State) : (s.setPsc x).mst = s.mst := rfl
@[simp] theorem setPsc_svm (x : Psc) (s : State) : (s.setPsc x).svm = s.svm := rfl
@[simp] theorem setPsc_out (x : Psc) (s : State) : (s.setPsc x).out = s.out := rfl
@[simp] theorem setPsc_draws (x : Psc) (s : State) : (s.setPsc x).draws = s.draws := rfl

@[simp] theorem setSpa_pending (x : Spa) (s : State) : (s.setSpa x).pending = s.pending := rfl
@[simp] theorem setSpa_pins (x : Spa) (s : State) : (s.setSpa x).pins = s.pins := rfl
@[simp] theorem setSpa_ulc (x : Spa) (s : State) : (s.setSpa x).ulc = s.ulc := rfl
@[simp] theorem setSpa_rqt (x : Spa) (s : State) : (s.setSpa x).rqt = s.rqt := rfl
@[simp] theorem setSpa_xmp (x : Spa) (s : State) : (s.setSpa x).xmp = s.xmp := rfl
@[simp] theorem setSpa_psc (x : Spa) (s : State) : (s.setSpa x).psc = s.psc := rfl
@[simp] theorem setSpa_spa (x : Spa) (s : State) : (s.setSpa x).spa = x := rfl
@[simp] theorem setSpa_ports (x : Spa) (s : State) : (s.setSpa x).ports = s.ports := rfl
@[simp] theorem setSpa_mve (x : Spa) (s : State) : (s.setSpa x).mve = s.mve := rfl
@[simp] theorem setSpa_mgu (x : Spa) (s : State) : (s.setSpa x).mgu = s.mgu := rfl
@[simp] theorem setSpa_mst (x : Spa) (s : State) : (s.setSpa x).mst = s.mst := rfl
@[simp] theorem setSpa_svm (x : Spa) (s : State) : (s.setSpa x).svm = s.svm := rfl
@[simp] theorem setSpa_out (x : Spa) (s : State) : (s.setSpa x).out = s.out := rfl
@[simp] theorem setSpa_draws (x : Spa) (s : State) : (s.setSpa x).draws = s.draws := rfl

@[simp] theorem setPorts_pending (x : Vector Port 4) (s : State) : (s.setPorts x).pending = s.pending := rfl
@[simp] theorem setPorts_pins (x : Vector Port 4) (s : State) : (s.setPorts x).pins = s.pins := rfl
@[simp] theorem setPorts_ulc (x : Vector Port 4) (s : State) : (s.setPorts x).ulc = s.ulc := rfl
@[simp] theorem setPorts_rqt (x : Vector Port 4) (s : State) : (s.setPorts x).rqt = s.rqt := rfl
@[simp] theorem setPorts_xmp (x : Vector Port 4) (s : State) : (s.setPorts x).xmp = s.xmp := rfl
@[simp] theorem setPorts_psc (x : Vector Port 4) (s : State) : (s.setPorts x).psc = s.psc := rfl
@[simp] theorem setPorts_spa (x : Vector Port 4) (s : State) : (s.setPorts x).spa = s.spa := rfl
@[simp] theorem setPorts_ports (x : Vector Port 4) (s : State) : (s.setPorts x).ports = x := rfl
@[simp] theorem setPorts_mve (x : Vector Port 4) (s : State) : (s.setPorts x).mve = s.mve := rfl
@[simp] theorem setPorts_mgu (x : Vector Port 4) (s : State) : (s.setPorts x).mgu = s.mgu := rfl
@[simp] theorem setPorts_mst (x : Vector Port 4) (s : State) : (s.setPorts x).mst = s.mst := rfl
@[simp] theorem setPorts_svm (x : Vector Port 4) (s : State) : (s.setPorts x).svm = s.svm := rfl
@[simp] theorem setPorts_out (x : Vector Port 4) (s : State) : (s.setPorts x).out = s.out := rfl
@[simp] theorem setPorts_draws (x : Vector Port 4) (s : State) : (s.setPorts x).draws = s.draws := rfl

@[simp] theorem setMve_pending (x : Option Move) (s : State) : (s.setMve x).pending = s.pending := rfl
@[simp] theorem setMve_pins (x : Option Move) (s : State) : (s.setMve x).pins = s.pins := rfl
@[simp] theorem setMve_ulc (x : Option Move) (s : State) : (s.setMve x).ulc = s.ulc := rfl
@[simp] theorem setMve_rqt (x : Option Move) (s : State) : (s.setMve x).rqt = s.rqt := rfl
@[simp] theorem setMve_xmp (x : Option Move) (s : State) : (s.setMve x).xmp = s.xmp := rfl
@[simp] theorem setMve_psc (x : Option Move) (s : State) : (s.setMve x).psc = s.psc := rfl
@[simp] theorem setMve_spa (x : Option Move) (s : State) : (s.setMve x).spa = s.spa := rfl
@[simp] theorem setMve_ports (x : Option Move) (s : State) : (s.setMve x).ports = s.ports := rfl
@[simp] theorem setMve_mve (x : Option Move) (s : State) : (s.setMve x).mve = x := rfl
@[simp] theorem setMve_mgu (x : Option Move) (s : State) : (s.setMve x).mgu = s.mgu := rfl
@[simp] theorem setMve_mst (x : Option Move) (s : State) : (s.setMve x).mst = s.mst := rfl
@[simp] theorem setMve_svm (x : Option Move) (s : State) : (s.setMve x).svm = s.svm := rfl
@[simp] theorem setMve_out (x : Option Move) (s : State) : (s.setMve x).out = s.out := rfl
@[simp] theorem setMve_draws (x : Option Move) (s : State) : (s.setMve x).draws = s.draws := rfl

@[simp] theorem setMgu_pending (x : Mgu) (s : State) : (s.setMgu x).pending = s.pending := rfl
@[simp] theorem setMgu_pins (x : Mgu) (s : State) : (s.setMgu x).pins = s.pins := rfl
@[simp] theorem setMgu_ulc (x : Mgu) (s : State) : (s.setMgu x).ulc = s.ulc := rfl
@[simp] theorem setMgu_rqt (x : Mgu) (s : State) : (s.setMgu x).rqt = s.rqt := rfl
@[simp] theorem setMgu_xmp (x : Mgu) (s : State) : (s.setMgu x).xmp = s.xmp := rfl
@[simp] theorem setMgu_psc (x : Mgu) (s : State) : (s.setMgu x).psc = s.psc := rfl
@[simp] theorem setMgu_spa (x : Mgu) (s : State) : (s.setMgu x).spa = s.spa := rfl
@[simp] theorem setMgu_ports (x : Mgu) (s : State) : (s.setMgu x).ports = s.ports := rfl
@[simp] theorem setMgu_mve (x : Mgu) (s : State) : (s.setMgu x).mve = s.mve := rfl
@[simp] theorem setMgu_mgu (x : Mgu) (s : State) : (s.setMgu x).mgu = x := rfl
@[simp] theorem setMgu_mst (x : Mgu) (s : State) : (s.setMgu x).mst = s.mst := rfl
@[simp] theorem setMgu_svm (x : Mgu) (s : State) : (s.setMgu x).svm = s.svm := rfl
@[simp] theorem setMgu_out (x : Mgu) (s : State) : (s.setMgu x).out = s.out := rfl
@[simp] theorem setMgu_draws (x : Mgu) (s : State) : (s.setMgu x).draws = s.draws := rfl

@[simp] theorem setMst_pending (x : Mst) (s : State) : (s.setMst x).pending = s.pending := rfl
@[simp] theorem setMst_pins (x : Mst) (s : State) : (s.setMst x).pins = s.pins := rfl
@[simp] theorem setMst_ulc (x : Mst) (s : State) : (s.setMst x).ulc = s.ulc := rfl
@[simp] theorem setMst_rqt (x : Mst) (s : State) : (s.setMst x).rqt = s.rqt := rfl
@[simp] theorem setMst_xmp (x : Mst) (s : State) : (s.setMst x).xmp = s.xmp := rfl
@[simp] theorem setMst_psc (x : Mst) (s : State) : (s.setMst x).psc = s.psc := rfl
@[simp] theorem setMst_spa (x : Mst) (s : State) : (s.setMst x).spa = s.spa := rfl
@[simp] theorem setMst_ports (x : Mst) (s : State) : (s.setMst x).ports = s.ports := rfl
@[simp] theorem setMst_mve (x : Mst) (s : State) : (s.setMst x).mve = s.mve := rfl
@[simp] theorem setMst_mgu (x : Mst) (s : State) : (s.setMst x).mgu = s.mgu := rfl
@[simp] theorem setMst_mst (x : Mst) (s : State) : (s.setMst x).mst = x := rfl
@[simp] theorem setMst_svm (x : Mst) (s : State) : (s.setMst x).svm = s.svm := rfl
@[simp] theorem setMst_out (x : Mst) (s : State) : (s.setMst x).out = s.out := rfl
@[simp] theorem setMst_draws (x : Mst) (s : State) : (s.setMst x).draws = s.draws := rfl

@[simp] theorem setSvm_pending (x : Svm) (s : State) : (s.setSvm x).pending = s.pending := rfl
@[simp] theorem setSvm_pins (x : Svm) (s : State) : (s.setSvm x).pins = s.pins := rfl
@[simp] theorem setSvm_ulc (x : Svm) (s : State) : (s.setSvm x).ulc = s.ulc := rfl
@[simp] theorem setSvm_rqt (x : Svm) (s : State) : (s.setSvm x).rqt = s.rqt := rfl
@[simp] theorem setSvm_xmp (x : Svm) (s : State) : (s.setSvm x).xmp = s.xmp := rfl
@[simp] theorem setSvm_psc (x : Svm) (s : State) : (s.setSvm x).psc = s.psc := rfl
@[simp] theorem setSvm_spa (x : Svm) (s : State) : (s.setSvm x).spa = s.spa := rfl
@[simp] theorem setSvm_ports (x : Svm) (s : State) : (s.setSvm x).ports = s.ports := rfl
@[simp] theorem setSvm_mve (x : Svm) (s : State) : (s.setSvm x).mve = s.mve := rfl
@[simp] theorem setSvm_mgu (x : Svm) (s : State) : (s.setSvm x).mgu = s.mgu := rfl
@[simp] theorem setSvm_mst (x : Svm) (s : State) : (s.setSvm x).mst = s.mst := rfl
@[simp] theorem setSvm_svm (x : Svm) (s : State) : (s.setSvm x).svm = x := rfl
@[simp] theorem setSvm_out (x : Svm) (s : State) : (s.setSvm x).out = s.out := rfl
@[simp] theorem setSvm_draws (x : Svm) (s : State) : (s.setSvm x).draws = s.draws := rfl

@[simp] theorem setOut_pending (x : Out) (s : State) : (s.setOut x).pending = s.pending := rfl
@[simp] theorem setOut_pins (x : Out) (s : State) : (s.setOut x).pins = s.pins := rfl
@[simp] theorem setOut_ulc (x : Out) (s : State) : (s.setOut x).ulc = s.ulc := rfl
@[simp] theorem setOut_rqt (x : Out) (s : State) : (s.setOut x).rqt = s.rqt := rfl
@[simp] theorem setOut_xmp (x : Out) (s : State) : (s.setOut x).xmp = s.xmp := rfl
@[simp] theorem setOut_psc (x : Out) (s : State) : (s.setOut x).psc = s.psc := rfl
@[simp] theorem setOut_spa (x : Out) (s : State) : (s.setOut x).spa = s.spa := rfl
@[simp] theorem setOut_ports (x : Out) (s : State) : (s.setOut x).ports = s.ports := rfl
@[simp] theorem setOut_mve (x : Out) (s : State) : (s.setOut x).mve = s.mve := rfl
@[simp] theorem setOut_mgu (x : Out) (s : State) : (s.setOut x).mgu = s.mgu := rfl
@[simp] theorem setOut_mst (x : Out) (s : State) : (s.setOut x).mst = s.mst := rfl
@[simp] theorem setOut_svm (x : Out) (s : State) : (s.setOut x).svm = s.svm := rfl
@[simp] theorem setOut_out (x : Out) (s : State) : (s.setOut x).out = x := rfl
@[simp] theorem setOut_draws (x : Out) (s : State) : (s.setOut x).draws = s.draws := rfl

@[simp] theorem setDraws_pending (x : Nat) (s : State) : (s.setDraws x).pending = s.pending := rfl
@[simp] theorem setDraws_pins (x : Nat) (s : State) : (s.setDraws x).pins = s.pins := rfl
@[simp] theorem setDraws_ulc (x : Nat) (s : State) : (s.setDraws x).ulc = s.ulc := rfl
@[simp] theorem setDraws_rqt (x : Nat) (s : State) : (s.setDraws x).rqt = s.rqt := rfl
@[simp] theorem setDraws_xmp (x : Nat) (s : State) : (s.setDraws x).xmp = s.xmp := rfl
@[simp] theorem setDraws_psc (x : Nat) (s : State) : (s.setDraws x).psc = s.psc := rfl
@[simp] theorem setDraws_spa (x : Nat) (s : State) : (s.setDraws x).spa = s.spa := rfl
@[simp] theorem setDraws_ports (x : Nat) (s : State) : (s.setDraws x).ports = s.ports := rfl
@[simp] theorem setDraws_mve (x : Nat) (s : State) : (s.setDraws x).mve = s.mve := rfl
@[simp] theorem setDraws_mgu (x : Nat) (s : State) : (s.setDraws x).mgu = s.mgu := rfl
@[simp] theorem setDraws_mst (x : Nat) (s : State) : (s.setDraws x).mst = s.mst := rfl
@[simp] theorem setDraws_svm (x : Nat) (s : State) : (s.setDraws x).svm = s.svm := rfl
@[simp] theorem setDraws_out (x : Nat) (s : State) : (s.setDraws x).out = s.out := rfl
@[simp] theorem setDraws_draws (x : Nat) (s : State) : (s.setDraws x).draws = x := rfl

@[simp] theorem setPending_self (s : State) : s.setPending s.pending = s := rfl
@[simp] theorem setPending_setPending (x y : List Instr) (s : State) : (s.setPending x).setPending y = s.setPending y := rfl
@[simp] theorem setPins_self (s : State) : s.setPins s.pins = s := rfl
@[simp] theorem setPins_setPins (x y : Pins) (s : State) : (s.setPins x).setPins y = s.setPins y := rfl
@[simp] theorem setUlc_self (s : State) : s.setUlc s.ulc = s := rfl
@[simp] theorem setUlc_setUlc (x y : Ulc) (s : State) : (s.setUlc x).setUlc y = s.setUlc y := rfl
@[simp] theorem setRqt_self (s : State) : s.setRqt s.rqt = s := rfl
@[simp] theorem setRqt_setRqt (x y : Rqt) (s : State) : (s.setRqt x).setRqt y = s.setRqt y := rfl
@[simp] theorem setXmp_self (s : State) : s.setXmp s.xmp = s := rfl
@[simp] theorem setXmp_setXmp (x y : Xmp) (s : State) : (s.setXmp x).setXmp y = s.setXmp y := rfl
@[simp] theorem setPsc_self (s : State) : s.setPsc s.psc = s := rfl
@[simp] theorem setPsc_setPsc (x y : Psc) (s : State) : (s.setPsc x).setPsc y = s.setPsc y := rfl
@[simp] theorem setSpa_self (s : State) : s.setSpa s.spa = s := rfl
@[simp] theorem setSpa_setSpa (x y : Spa) (s : State) : (s.setSpa x).setSpa y = s.setSpa y := rfl
@[simp] theorem setPorts_self (s : State) : s.setPorts s.ports = s := rfl
@[simp] theorem setPorts_setPorts (x y : Vector Port 4) (s : State) : (s.setPorts x).setPorts y = s.setPorts y := rfl
@[simp] theorem setMve_self (s : State) : s.setMve s.mve = s := rfl
@[simp] theorem setMve_setMve (x y : Option Move) (s : State) : (s.setMve x).setMve y = s.setMve y := rfl
@[simp] theorem setMgu_self (s : State) : s.setMgu s.mgu = s := rfl
@[simp] theorem setMgu_setMgu (x y : Mgu) (s : State) : (s.setMgu x).setMgu y = s.setMgu y := rfl
@[simp] theorem setMst_self (s : State) : s.setMst s.mst = s := rfl
@[simp] theorem setMst_setMst (x y : Mst) (s : State) : (s.setMst x).setMst y = s.setMst y := rfl
@[simp] theorem setSvm_self (s : State) : s.setSvm s.svm = s := rfl
@[simp] theorem setSvm_setSvm (x y : Svm) (s : State) : (s.setSvm x).setSvm y = s.setSvm y := rfl
@[simp] theorem setOut_self (s : State) : s.setOut s.out = s := rfl
@[simp] theorem setOut_setOut (x y : Out) (s : State) : (s.setOut x).setOut y = s.setOut y := rfl
@[simp] theorem setDraws_self (s : State) : s.setDraws s.draws = s := rfl
@[simp] theorem setDraws_setDraws (x y : Nat) (s : State) : (s.setDraws x).setDraws y = s.setDraws y := rfl

end Sys2Proof.Machine.State
end

