-- ==== Sys2Proof/Laws/Control.lean ====
section
/-! SUPPORT. What the operations on traffic leave alone: the lines, the store, the supervision state, the settings, the
generation and the staging map. One lemma for each operation of Ops, Pieces, Move, Slots and Ports; the operations that
may take the switch of a move change the generation and leave the rest alone (`steady`). -/

namespace Sys2Proof.Machine

/-- The part of the state that no operation on traffic changes. -/
def State.control (s : State) :=
  (s.pending, s.pins, s.mst, s.svm, s.draws, s.mgu.settings, s.mgu.startCause, s.xmp.generation, s.xmp.staging,
    s.xmp.stagingOpen)

/-- The part of the state that the switch of a move leaves alone as well: all of `control` but the generation. -/
def State.steady (s : State) :=
  (s.pending, s.pins, s.mst, s.svm, s.draws, s.mgu.settings, s.mgu.startCause, s.xmp.staging, s.xmp.stagingOpen)

theorem steady_of_control {s t : State} (e : t.control = s.control) : t.steady = s.steady := by
  simp only [State.control, Prod.mk.injEq] at e
  simp only [State.steady, Prod.mk.injEq]
  exact ⟨e.1, e.2.1, e.2.2.1, e.2.2.2.1, e.2.2.2.2.1, e.2.2.2.2.2.1, e.2.2.2.2.2.2.1, e.2.2.2.2.2.2.2.2.1,
    e.2.2.2.2.2.2.2.2.2⟩

theorem foldl_control {α : Type} (f : State → α → State) (h : ∀ s a, (f s a).control = s.control) (l : List α)
    (s : State) : (l.foldl f s).control = s.control := by
  induction l generalizing s with
  | nil => rfl
  | cons a l ih => simp [List.foldl_cons, ih, h]

/-! ### Setters -/

@[simp] theorem setUlc_control (x : Ulc) (s : State) : (s.setUlc x).control = s.control := rfl
@[simp] theorem setRqt_control (x : Rqt) (s : State) : (s.setRqt x).control = s.control := rfl
@[simp] theorem setPsc_control (x : Psc) (s : State) : (s.setPsc x).control = s.control := rfl
@[simp] theorem setSpa_control (x : Spa) (s : State) : (s.setSpa x).control = s.control := rfl
@[simp] theorem setPorts_control (x : Vector Port 4) (s : State) : (s.setPorts x).control = s.control := rfl
@[simp] theorem setMve_control (x : Option Move) (s : State) : (s.setMve x).control = s.control := rfl
@[simp] theorem setOut_control (x : Out) (s : State) : (s.setOut x).control = s.control := rfl
@[simp] theorem setFlag_control (f : ChangeFlag) (s : State) : (setFlag f s).control = s.control := by
  cases f <;> rfl

/-! ### Ops -/

@[simp] theorem setEntry_control (t : Tag) (e : Option Entry) (s : State) : (setEntry t e s).control = s.control := rfl
@[simp] theorem modEntry_control (t : Tag) (f : Entry → Entry) (s : State) : (modEntry t f s).control = s.control := rfl
@[simp] theorem setPiece_control (i : PieceId) (p : Option Piece) (s : State) : (setPiece i p s).control = s.control :=
  rfl
@[simp] theorem modPiece_control (i : PieceId) (f : Piece → Piece) (s : State) : (modPiece i f s).control = s.control :=
  rfl
@[simp] theorem joinQueue_control (p : PortId) (i : PieceId) (s : State) : (joinQueue p i s).control = s.control := rfl
@[simp] theorem setPort_control (p : PortId) (x : Port) (s : State) : (setPort p x s).control = s.control := rfl
@[simp] theorem modPort_control (p : PortId) (f : Port → Port) (s : State) : (modPort p f s).control = s.control := rfl
@[simp] theorem sendMedia_control (p : PortId) (o : MediaOut) (s : State) : (sendMedia p o s).control = s.control := rfl
@[simp] theorem releaseSlots_control (l : List SlotId) (s : State) : (releaseSlots l s).control = s.control := rfl
@[simp] theorem writeSlot_control (k : SlotId) (b : Block) (s : State) : (writeSlot k b s).control = s.control := rfl
@[simp] theorem withdrawClaim_control (p : PortId) (s : State) : (withdrawClaim p s).control = s.control := rfl
@[simp] theorem leaveQueues_control (i : PieceId) (s : State) : (leaveQueues i s).control = s.control := by
  unfold leaveQueues; dsimp only; rw [setPsc_control]; exact foldl_control _ (by intros; simp) _ _
@[simp] theorem handFrame_control (f : TxFrame) (s : State) : (handFrame f s).control = s.control := rfl
@[simp] theorem withdrawFrames_control (q : TxFrame → Bool) (s : State) : (withdrawFrames q s).control = s.control := rfl
@[simp] theorem frameLeaves_control (f : HostFrame) (s : State) : (frameLeaves f s).control = s.control := rfl
@[simp] theorem removeGrant_control (g : Grant) (s : State) : (removeGrant g s).control = s.control := rfl
@[simp] theorem withdrawGrant_control (g : Grant) (s : State) : (withdrawGrant g s).control = s.control := rfl
@[simp] theorem withdrawGrants_control (q : Grant → Bool) (s : State) : (withdrawGrants q s).control = s.control := by
  exact foldl_control _ (by intros; simp) _ _
@[simp] theorem openGrant_control (g : Grant) (s : State) : (openGrant g s).control = s.control := rfl
@[simp] theorem sendCmpl_control (t : Tag) (o : ReqOutcome) (c : Cause) (r d : Nat) (s : State) :
    (sendCmpl t o c r d s).control = s.control := rfl
@[simp] theorem freeEntry_control (t : Tag) (s : State) : (freeEntry t s).control = s.control := by
  simp [freeEntry]
@[simp] theorem complete_control (t : Tag) (o : ReqOutcome) (c : Cause) (r d : Nat) (s : State) :
    (complete t o c r d s).control = s.control := by simp [complete]

/-! ### Pieces -/

@[simp] theorem completeData_control (t : Tag) (e : Entry) (s : State) : (completeData t e s).control = s.control := by
  unfold completeData; (repeat' split) <;> simp
@[simp] theorem completeFlush_control (t : Tag) (e : Entry) (s : State) :
    (completeFlush t e s).control = s.control := by
  unfold completeFlush; (repeat' split) <;> simp
@[simp] theorem tryComplete_control (t : Tag) (s : State) : (tryComplete t s).control = s.control := by
  unfold tryComplete; (repeat' split) <;> simp
@[simp] theorem trimActive_control (t : Tag) (s : State) : (trimActive t s).control = s.control := by
  unfold trimActive; (repeat' split) <;> simp
@[simp] theorem detachPiece_control (i : PieceId) (s : State) : (detachPiece i s).control = s.control := by
  unfold detachPiece; split <;> simp
@[simp] theorem dropPiece_control (t : Tag) (i : PieceId) (s : State) : (dropPiece t i s).control = s.control := by
  unfold dropPiece; split <;> simp
@[simp] theorem dropPieces_control (t : Tag) (q : Piece → Bool) (s : State) :
    (dropPieces t q s).control = s.control := by
  exact foldl_control _ (by intros; simp) _ _
@[simp] theorem stopFlush_control (t : Tag) (s : State) : (stopFlush t s).control = s.control := by
  simp [stopFlush]
@[simp] theorem dataOutcome_control (t : Tag) (e : Entry) (p : Piece) (o : PieceOutcome) (s : State) :
    (dataOutcome t e p o s).control = s.control := by
  unfold dataOutcome; dsimp only; (repeat' split) <;> simp
@[simp] theorem flushOutcome_control (t : Tag) (e : Entry) (p : Piece) (o : PieceOutcome) (s : State) :
    (flushOutcome t e p o s).control = s.control := by
  unfold flushOutcome; dsimp only; (repeat' split) <;> simp
@[simp] theorem requestOutcome_control (t : Tag) (p : Piece) (o : PieceOutcome) (s : State) :
    (requestOutcome t p o s).control = s.control := by
  unfold requestOutcome; (repeat' split) <;> simp
@[simp] theorem clearFaults_control (p : PortId) (s : State) : (clearFaults p s).control = s.control := rfl
@[simp] theorem pieceEnds_control (i : PieceId) (o : PieceOutcome) (a : Option PortId) (s : State) :
    (pieceEnds i o a s).control = s.control := by
  unfold pieceEnds; dsimp only; (repeat' split) <;> simp

/-! ### Move -/

@[simp] theorem refreshBlocking_control (s : State) : (refreshBlocking s).control = s.control := by
  unfold refreshBlocking; split <;> simp
@[simp] theorem fixChunk_control (m : Move) (s : State) : (fixChunk m s).control = s.control := by
  simp [fixChunk]
@[simp] theorem abortPiece_control (i : PieceId) (s : State) : (abortPiece i s).control = s.control := by
  unfold abortPiece; (repeat' split) <;> simp
@[simp] theorem setActive_control (m : ExtMap) (s : State) :
    (s.setXmp { s.xmp with active := m }).control = s.control := rfl
@[simp] theorem abortMove_control (o : ReqOutcome) (c : Cause) (d : Nat) (b : Bool) (s : State) :
    (abortMove o c d b s).control = s.control := by
  unfold abortMove; dsimp only
  (repeat' split) <;> (try simp only [complete_control]) <;>
    (try rw [foldl_control _ fun s i => abortPiece_control i s]) <;> simp
@[simp] theorem portExitAborts_control (p : PortId) (c : Cause) (s : State) :
    (portExitAborts p c s).control = s.control := by
  unfold portExitAborts; (repeat' split) <;> simp
@[simp] theorem abortAt_control (l : Option Nat) (c : Cause) (s : State) : (abortAt l c s).control = s.control := by
  unfold abortAt; split <;> simp
@[simp] theorem sourceFails_control (i : PieceId) (k : Nat) (c : Cause) (s : State) :
    (sourceFails i k c s).control = s.control := by
  unfold sourceFails; split <;> simp
@[simp] theorem destFails_control (i : PieceId) (k : Nat) (c : Cause) (s : State) :
    (destFails i k c s).control = s.control := by
  unfold destFails; dsimp only; (repeat' split) <;> simp
@[simp] theorem pieceFails_control (i : PieceId) (k : Nat) (c : Cause) (s : State) :
    (pieceFails i k c s).control = s.control := by
  unfold pieceFails; (repeat' split) <;> simp
@[simp] theorem joinDestination_control (i : PieceId) (s : State) : (joinDestination i s).control = s.control := by
  unfold joinDestination; dsimp only; (repeat' split) <;> simp
@[simp] theorem sourceEnds_control (i : PieceId) (s : State) : (sourceEnds i s).control = s.control := by
  unfold sourceEnds; dsimp only; (repeat' split) <;> simp
@[simp] theorem advanceCursor_control (s : State) : (advanceCursor s).control = s.control := by
  unfold advanceCursor; dsimp only
  (repeat' split) <;> (try simp only [fixChunk_control, setMve_control]) <;>
    (try rw [foldl_control _ fun s i => joinDestination_control i s]) <;> simp
@[simp] theorem destEnds_control (i : PieceId) (s : State) : (destEnds i s).control = s.control := by
  unfold destEnds; dsimp only; (repeat' split) <;> simp

@[simp] theorem complete_steady (t : Tag) (o : ReqOutcome) (c : Cause) (r d : Nat) (s : State) :
    (complete t o c r d s).steady = s.steady := steady_of_control (by simp)
theorem switchStep_steady {s t : State} (h : switchStep s = some t) : t.steady = s.steady := by
  unfold switchStep at h
  repeat' split at h
  · contradiction
  · cases h
    unfold switchMove
    dsimp only
    rw [complete_steady]
    rfl
  · contradiction
/-- R93, R106: what `takeSwitch` can do: the switch where it is due, and nothing otherwise. -/
theorem takeSwitch_eq (s : State) :
    (∃ m, s.mve = some m ∧ switchReady m s = true ∧ takeSwitch s = switchMove m s) ∨
      takeSwitch s = s ∧ ∀ m, s.mve = some m → switchReady m s = false := by
  unfold takeSwitch switchStep
  cases hm : s.mve with
  | none => exact .inr ⟨rfl, fun _ h => nomatch h⟩
  | some m =>
    cases hr : switchReady m s with
    | true => exact .inl ⟨m, rfl, hr, by simp [hr]⟩
    | false => exact .inr ⟨by simp [hr], fun m' h => by cases h; exact hr⟩
@[simp] theorem takeSwitch_steady (s : State) : (takeSwitch s).steady = s.steady := by
  unfold takeSwitch
  cases h : switchStep s with
  | none => rfl
  | some t => exact switchStep_steady h

/-! ### Slots -/

@[simp] theorem grantHead_control (i : PieceId) (q : Piece) (l : List SlotId) (s : State) :
    (grantHead i q l s).control = s.control := by
  unfold grantHead; split <;> simp
theorem slotGrantStep_control {s t : State} (h : slotGrantStep s = some t) : t.control = s.control := by
  unfold slotGrantStep at h
  repeat' split at h
  all_goals first | contradiction | (cases h; simp)
@[simp] theorem placePiece_control (i : PieceId) (p : PortId) (s : State) : (placePiece i p s).control = s.control := by
  unfold placePiece; split <;> simp
@[simp] theorem joinShadows_control (i : PieceId) (p : Piece) (s : State) : (joinShadows i p s).control = s.control := by
  unfold joinShadows; split <;> simp
theorem cutStep_control {s t : State} (h : cutStep s = some t) : t.control = s.control := by
  unfold cutStep at h
  dsimp only at h
  repeat' split at h
  all_goals first | contradiction | (cases h; simp)
theorem flCutStep_control {s t : State} (h : flCutStep s = some t) : t.control = s.control := by
  unfold flCutStep at h
  dsimp only at h
  repeat' split at h
  all_goals first | contradiction | (cases h; simp)
theorem blockingStep_control {s t : State} (h : blockingStep s = some t) : t.control = s.control := by
  unfold blockingStep at h
  repeat' split at h
  all_goals first | contradiction | (cases h; simp)
theorem cpCutStep_control {s t : State} (h : cpCutStep s = some t) : t.control = s.control := by
  unfold cpCutStep at h
  dsimp only at h
  repeat' split at h
  all_goals first | contradiction | (cases h; simp)

/-! ### Ports -/

@[simp] theorem sendCommand_control (p : PortId) (i : PieceId) (q : Piece) (op : MediaOp) (d : Bool) (s : State) :
    (sendCommand p i q op d s).control = s.control := rfl
@[simp] theorem serveHead_control (s : State) (p : PortId) : (serveHead s p).control = s.control := by
  unfold serveHead; dsimp only; (repeat' split) <;> simp
@[simp] theorem serveHeads_control (s : State) : (serveHeads s).control = s.control := by
  exact foldl_control _ (by intros; simp) _ _
@[simp] theorem startProbe_control (p : PortId) (st : PortState) (s : State) :
    (startProbe p st s).control = s.control := rfl
@[simp] theorem failQueue_control (p : PortId) (c : Cause) (s : State) : (failQueue p c s).control = s.control := by
  unfold failQueue
  apply foldl_control
  intro s i
  split <;> simp
@[simp] theorem reportExit_control (o : PortState) (p : PortId) (c : Cause) (s : State) :
    (reportExit o p c s).control = s.control := by
  unfold reportExit; split <;> simp
@[simp] theorem enterDown_control (p : PortId) (s : State) : (enterDown p s).control = s.control := by
  simp [enterDown]
@[simp] theorem endPending_control (p : PortId) (x : OfflinePending) (s : State) :
    (endPending p x s).control = s.control := by
  unfold endPending; split <;> (try simp) <;> rfl
@[simp] theorem enterOffline_control (p : PortId) (c : Cause) (s : State) :
    (enterOffline p c s).control = s.control := by simp [enterOffline]
@[simp] theorem countFault_control (p : PortId) (s : State) : (countFault p s).control = s.control := by
  simp [countFault]
theorem enterOffline_steady (p : PortId) (c : Cause) (s : State) : (enterOffline p c s).steady = s.steady :=
  steady_of_control (by simp)
theorem reportExit_steady (o : PortState) (p : PortId) (c : Cause) (s : State) :
    (reportExit o p c s).steady = s.steady := steady_of_control (by simp)
@[simp] theorem portFault_steady (p : PortId) (i : PieceId) (s : State) : (portFault p i s).steady = s.steady := by
  unfold portFault; dsimp only
  split
  · rw [enterOffline_steady, takeSwitch_steady]; exact steady_of_control (by simp)
  · rw [reportExit_steady, takeSwitch_steady]; exact steady_of_control (by simp)
@[simp] theorem probeFails_control (p : PortId) (s : State) : (probeFails p s).control = s.control := by
  unfold probeFails; dsimp only; split <;> simp
@[simp] theorem takeStatus_control (p : PortId) (s : State) : (takeStatus p s).control = s.control := rfl
@[simp] theorem handBlock_control (i : PieceId) (s : State) : (handBlock i s).control = s.control := by
  unfold handBlock; (repeat' split) <;> simp
@[simp] theorem readEnds_control (i : PieceId) (q : Piece) (s : State) : (readEnds i q s).control = s.control := by
  unfold readEnds; (repeat' split) <;> simp
@[simp] theorem copyReadEnds_control (i : PieceId) (q : Piece) (s : State) :
    (copyReadEnds i q s).control = s.control := by
  unfold copyReadEnds; split <;> simp
@[simp] theorem verifyPhase_control (p : PortId) (i : PieceId) (d : Bool) (s : State) :
    (verifyPhase p i d s).control = s.control := by
  unfold verifyPhase; dsimp only; (repeat' split) <;> simp
@[simp] theorem goodStatus_control (p : PortId) (i : PieceId) (op : MediaOp) (d : Bool) (s : State) :
    (goodStatus p i op d s).control = s.control := by
  unfold goodStatus; (repeat' split) <;> simp
@[simp] theorem settlePending_steady (p : PortId) (s : State) : (settlePending p s).steady = s.steady := by
  unfold settlePending; split
  · rfl
  · rw [enterOffline_steady, takeSwitch_steady]
@[simp] theorem notePending_control (p : PortId) (s : State) : (notePending p s).control = s.control := by
  unfold notePending; split <;> simp
@[simp] theorem statusOk_steady (p : PortId) (s : State) : (statusOk p s).steady = s.steady := by
  unfold statusOk; dsimp only
  (repeat' split) <;> first | rfl | (rw [settlePending_steady]; exact steady_of_control (by simp))
@[simp] theorem statusError_steady (p : PortId) (k : Nat) (e : MediaError) (s : State) :
    (statusError p k e s).steady = s.steady := by
  unfold statusError; dsimp only
  (repeat' split) <;> first | rfl | (rw [settlePending_steady]; exact steady_of_control (by simp))
@[simp] theorem statusNotReady_steady (p : PortId) (s : State) : (statusNotReady p s).steady = s.steady := by
  unfold statusNotReady; split <;> simp
@[simp] theorem statusInquiry_control (p : PortId) (c : Word) (r : Bool) (s : State) :
    (statusInquiry p c r s).control = s.control := by
  unfold statusInquiry; (repeat' split) <;> simp
@[simp] theorem mediaBlock_control (p : PortId) (i : Nat) (b : Block) (s : State) :
    (mediaBlock p i b s).control = s.control := by
  unfold mediaBlock; (repeat' split) <;> simp
@[simp] theorem unitAppears_control (p : PortId) (s : State) : (unitAppears p s).control = s.control := by
  unfold unitAppears; split <;> simp
@[simp] theorem unitGone_control (p : PortId) (s : State) : (unitGone p s).control = s.control := by
  unfold unitGone; (repeat' split) <;> simp
@[simp] theorem portOfflineTaken_control (t : Tag) (p : PortId) (s : State) :
    (portOfflineTaken t p s).1.control = s.control := by
  unfold portOfflineTaken; (repeat' split) <;> simp
@[simp] theorem portOnlineTaken_control (p : PortId) (s : State) : (portOnlineTaken p s).control = s.control := by
  unfold portOnlineTaken; dsimp only; (repeat' split) <;> simp

/-! ### The end of every event, and resolution -/

@[simp] theorem finish_control (s : State) : (finish s).control = s.control := by simp [finish]
@[simp] theorem reportDual_control (t : Tag) (l : List Segment) (s : State) :
    (reportDual t l s).control = s.control := by
  unfold reportDual; split <;> simp
theorem intakeStep_control {s t : State} (h : intakeStep s = some t) : t.control = s.control := by
  unfold intakeStep at h
  repeat' split at h
  all_goals first | contradiction | (cases h; simp [resolveHead])
theorem flushStep_control {s t : State} (h : flushStep s = some t) : t.control = s.control := by
  unfold flushStep at h
  repeat' split at h
  · contradiction
  · contradiction
  · obtain ⟨e, _, he⟩ := Option.map_eq_some_iff.mp h
    subst he
    unfold resolveFlush
    dsimp only
    (repeat' split) <;> simp

end Sys2Proof.Machine
end

