-- ==== Sys2Proof/Laws/Ports.lean ====
section
/-! SUPPORT. Which operations leave the ports alone, and that the others keep every port sound (R83, R91). -/

namespace Sys2Proof.Machine

theorem foldl_ports {α : Type} (f : State → α → State) (h : ∀ s a, (f s a).ports = s.ports) (l : List α) (s : State) :
    (l.foldl f s).ports = s.ports := by
  induction l generalizing s with
  | nil => rfl
  | cons a l ih => simp [List.foldl_cons, ih, h]

/-! ### Operations that leave the ports alone -/

@[simp] theorem setFlag_ports (f : ChangeFlag) (s : State) : (setFlag f s).ports = s.ports := by cases f <;> rfl
@[simp] theorem setEntry_ports (t : Tag) (e : Option Entry) (s : State) : (setEntry t e s).ports = s.ports := rfl
@[simp] theorem modEntry_ports (t : Tag) (f : Entry → Entry) (s : State) : (modEntry t f s).ports = s.ports := rfl
@[simp] theorem setPiece_ports (i : PieceId) (p : Option Piece) (s : State) : (setPiece i p s).ports = s.ports := rfl
@[simp] theorem modPiece_ports (i : PieceId) (f : Piece → Piece) (s : State) : (modPiece i f s).ports = s.ports := rfl
@[simp] theorem joinQueue_ports (p : PortId) (i : PieceId) (s : State) : (joinQueue p i s).ports = s.ports := rfl
@[simp] theorem sendMedia_ports (p : PortId) (o : MediaOut) (s : State) : (sendMedia p o s).ports = s.ports := rfl
@[simp] theorem releaseSlots_ports (l : List SlotId) (s : State) : (releaseSlots l s).ports = s.ports := rfl
@[simp] theorem writeSlot_ports (k : SlotId) (b : Block) (s : State) : (writeSlot k b s).ports = s.ports := rfl
@[simp] theorem withdrawClaim_ports (p : PortId) (s : State) : (withdrawClaim p s).ports = s.ports := rfl
@[simp] theorem leaveQueues_ports (i : PieceId) (s : State) : (leaveQueues i s).ports = s.ports := by
  unfold leaveQueues; dsimp only; rw [State.setPsc_ports]; exact foldl_ports _ (by intros; simp) _ _
@[simp] theorem handFrame_ports (f : TxFrame) (s : State) : (handFrame f s).ports = s.ports := rfl
@[simp] theorem withdrawFrames_ports (q : TxFrame → Bool) (s : State) : (withdrawFrames q s).ports = s.ports := rfl
@[simp] theorem frameLeaves_ports (f : HostFrame) (s : State) : (frameLeaves f s).ports = s.ports := rfl
@[simp] theorem removeGrant_ports (g : Grant) (s : State) : (removeGrant g s).ports = s.ports := rfl
@[simp] theorem withdrawGrant_ports (g : Grant) (s : State) : (withdrawGrant g s).ports = s.ports := rfl
@[simp] theorem withdrawGrants_ports (q : Grant → Bool) (s : State) : (withdrawGrants q s).ports = s.ports :=
  foldl_ports _ (by intros; simp) _ _
@[simp] theorem openGrant_ports (g : Grant) (s : State) : (openGrant g s).ports = s.ports := rfl
@[simp] theorem sendCmpl_ports (t : Tag) (o : ReqOutcome) (c : Cause) (r d : Nat) (s : State) :
    (sendCmpl t o c r d s).ports = s.ports := rfl
@[simp] theorem freeEntry_ports (t : Tag) (s : State) : (freeEntry t s).ports = s.ports := by simp [freeEntry]
@[simp] theorem complete_ports (t : Tag) (o : ReqOutcome) (c : Cause) (r d : Nat) (s : State) :
    (complete t o c r d s).ports = s.ports := by simp [complete]
@[simp] theorem completeData_ports (t : Tag) (e : Entry) (s : State) : (completeData t e s).ports = s.ports := by
  unfold completeData; (repeat' split) <;> simp
@[simp] theorem completeFlush_ports (t : Tag) (e : Entry) (s : State) : (completeFlush t e s).ports = s.ports := by
  unfold completeFlush; (repeat' split) <;> simp
@[simp] theorem tryComplete_ports (t : Tag) (s : State) : (tryComplete t s).ports = s.ports := by
  unfold tryComplete; (repeat' split) <;> simp
@[simp] theorem trimActive_ports (t : Tag) (s : State) : (trimActive t s).ports = s.ports := by
  unfold trimActive; (repeat' split) <;> simp
@[simp] theorem detachPiece_ports (i : PieceId) (s : State) : (detachPiece i s).ports = s.ports := by
  unfold detachPiece; split <;> simp
@[simp] theorem dropPiece_ports (t : Tag) (i : PieceId) (s : State) : (dropPiece t i s).ports = s.ports := by
  unfold dropPiece; split <;> simp
@[simp] theorem dropPieces_ports (t : Tag) (q : Piece → Bool) (s : State) : (dropPieces t q s).ports = s.ports :=
  foldl_ports _ (by intros; simp) _ _
@[simp] theorem stopFlush_ports (t : Tag) (s : State) : (stopFlush t s).ports = s.ports := by simp [stopFlush]
@[simp] theorem dataOutcome_ports (t : Tag) (e : Entry) (p : Piece) (o : PieceOutcome) (s : State) :
    (dataOutcome t e p o s).ports = s.ports := by
  unfold dataOutcome; dsimp only; (repeat' split) <;> simp
@[simp] theorem flushOutcome_ports (t : Tag) (e : Entry) (p : Piece) (o : PieceOutcome) (s : State) :
    (flushOutcome t e p o s).ports = s.ports := by
  unfold flushOutcome; dsimp only; (repeat' split) <;> simp
@[simp] theorem requestOutcome_ports (t : Tag) (p : Piece) (o : PieceOutcome) (s : State) :
    (requestOutcome t p o s).ports = s.ports := by
  unfold requestOutcome; (repeat' split) <;> simp
/-- A piece that ends without a port whose count it clears leaves the ports alone. -/
@[simp] theorem pieceEnds_none_ports (i : PieceId) (o : PieceOutcome) (s : State) :
    (pieceEnds i o none s).ports = s.ports := by
  unfold pieceEnds; dsimp only; (repeat' split) <;> simp
@[simp] theorem refreshBlocking_ports (s : State) : (refreshBlocking s).ports = s.ports := by
  unfold refreshBlocking; split <;> simp
@[simp] theorem fixChunk_ports (m : Move) (s : State) : (fixChunk m s).ports = s.ports := by simp [fixChunk]
@[simp] theorem abortPiece_ports (i : PieceId) (s : State) : (abortPiece i s).ports = s.ports := by
  unfold abortPiece; (repeat' split) <;> simp
@[simp] theorem abortMove_ports (o : ReqOutcome) (c : Cause) (d : Nat) (b : Bool) (s : State) :
    (abortMove o c d b s).ports = s.ports := by
  unfold abortMove; dsimp only
  (repeat' split) <;> (try simp only [complete_ports]) <;>
    (try rw [foldl_ports _ fun s i => abortPiece_ports i s]) <;> simp
@[simp] theorem portExitAborts_ports (p : PortId) (c : Cause) (s : State) :
    (portExitAborts p c s).ports = s.ports := by
  unfold portExitAborts; (repeat' split) <;> simp
@[simp] theorem abortAt_ports (l : Option Nat) (c : Cause) (s : State) : (abortAt l c s).ports = s.ports := by
  unfold abortAt; split <;> simp
@[simp] theorem sourceFails_ports (i : PieceId) (k : Nat) (c : Cause) (s : State) :
    (sourceFails i k c s).ports = s.ports := by
  unfold sourceFails; split <;> simp
@[simp] theorem destFails_ports (i : PieceId) (k : Nat) (c : Cause) (s : State) :
    (destFails i k c s).ports = s.ports := by
  unfold destFails; dsimp only; (repeat' split) <;> simp
@[simp] theorem pieceFails_ports (i : PieceId) (k : Nat) (c : Cause) (s : State) :
    (pieceFails i k c s).ports = s.ports := by
  unfold pieceFails; (repeat' split) <;> simp
@[simp] theorem joinDestination_ports (i : PieceId) (s : State) : (joinDestination i s).ports = s.ports := by
  unfold joinDestination; dsimp only; (repeat' split) <;> simp
@[simp] theorem advanceCursor_ports (s : State) : (advanceCursor s).ports = s.ports := by
  unfold advanceCursor; dsimp only
  (repeat' split) <;> (try simp only [fixChunk_ports, State.setMve_ports]) <;>
    (try rw [foldl_ports _ fun s i => joinDestination_ports i s]) <;> simp
@[simp] theorem switchMove_ports (m : Move) (s : State) : (switchMove m s).ports = s.ports := by simp [switchMove]
@[simp] theorem startMove_ports (t : Tag) (a b c : Word) (s : State) : (startMove t a b c s).ports = s.ports := by
  unfold startMove; split <;> simp
@[simp] theorem placePiece_ports (i : PieceId) (p : PortId) (s : State) : (placePiece i p s).ports = s.ports := by
  unfold placePiece; split <;> simp
@[simp] theorem joinShadows_ports (i : PieceId) (p : Piece) (s : State) : (joinShadows i p s).ports = s.ports := by
  unfold joinShadows; split <;> simp
@[simp] theorem grantHead_ports (i : PieceId) (q : Piece) (l : List SlotId) (s : State) :
    (grantHead i q l s).ports = s.ports := by
  unfold grantHead; split <;> simp
theorem slotGrantStep_ports {s t : State} (h : slotGrantStep s = some t) : t.ports = s.ports := by
  unfold slotGrantStep at h
  repeat' split at h
  all_goals first | contradiction | (cases h; simp)
theorem cutStep_ports {s t : State} (h : cutStep s = some t) : t.ports = s.ports := by
  unfold cutStep at h
  dsimp only at h
  repeat' split at h
  all_goals first | contradiction | (cases h; simp)
theorem flCutStep_ports {s t : State} (h : flCutStep s = some t) : t.ports = s.ports := by
  unfold flCutStep at h
  dsimp only at h
  repeat' split at h
  all_goals first | contradiction | (cases h; simp)
theorem blockingStep_ports {s t : State} (h : blockingStep s = some t) : t.ports = s.ports := by
  unfold blockingStep at h
  repeat' split at h
  all_goals first | contradiction | (cases h; simp)
theorem cpCutStep_ports {s t : State} (h : cpCutStep s = some t) : t.ports = s.ports := by
  unfold cpCutStep at h
  dsimp only at h
  repeat' split at h
  all_goals first | contradiction | (cases h; simp)
theorem intakeStep_ports {s t : State} (h : intakeStep s = some t) : t.ports = s.ports := by
  unfold intakeStep at h
  repeat' split at h
  all_goals first | contradiction | (cases h; first | (simp; done) | (unfold resolveHead reportDual; split <;> simp))
theorem flushStep_ports {s t : State} (h : flushStep s = some t) : t.ports = s.ports := by
  unfold flushStep at h
  repeat' split at h
  · contradiction
  · contradiction
  · obtain ⟨e, _, he⟩ := Option.map_eq_some_iff.mp h
    subst he
    unfold resolveFlush
    dsimp only
    (repeat' split) <;> simp
theorem switchStep_ports {s t : State} (h : switchStep s = some t) : t.ports = s.ports := by
  unfold switchStep at h
  repeat' split at h
  all_goals first | contradiction | (cases h; simp)
@[simp] theorem takeSwitch_ports (s : State) : (takeSwitch s).ports = s.ports := by
  unfold takeSwitch
  cases h : switchStep s with
  | none => rfl
  | some t => exact switchStep_ports h
@[simp] theorem handBlock_ports (i : PieceId) (s : State) : (handBlock i s).ports = s.ports := by
  unfold handBlock; (repeat' split) <;> simp
@[simp] theorem failQueue_ports (p : PortId) (c : Cause) (s : State) : (failQueue p c s).ports = s.ports := by
  unfold failQueue
  apply foldl_ports
  intro s i
  split <;> simp
@[simp] theorem reportExit_ports (o : PortState) (p : PortId) (c : Cause) (s : State) :
    (reportExit o p c s).ports = s.ports := by
  unfold reportExit; split <;> simp
@[simp] theorem endPending_ports (p : PortId) (x : OfflinePending) (s : State) :
    (endPending p x s).ports = s.ports := by
  unfold endPending; split <;> simp
@[simp] theorem notePending_ports (p : PortId) (s : State) : (notePending p s).ports = s.ports := by
  unfold notePending; split <;> simp

/-! ### Soundness of the ports -/

theorem PortsSound.of_ports {s t : State} (h : PortsSound s) (e : t.ports = s.ports) : PortsSound t := by
  intro p
  have := h p
  unfold portOf at *
  rw [e]
  exact this

theorem PortsSound.setPort {s : State} (h : PortsSound s) (p : PortId) (x : Port) (hx : x.Sound) :
    PortsSound (setPort p x s) := by
  intro q
  unfold portOf Machine.setPort State.setPorts
  by_cases e : p = q
  · subst e
    simpa using hx
  · have := h q
    unfold portOf at this
    have e' : p.val ≠ q.val := fun h => e (Fin.ext h)
    simpa [Vector.getElem_set_ne, e'] using this

theorem PortsSound.modPort {s : State} (h : PortsSound s) (p : PortId) (f : Port → Port)
    (hf : (f (portOf p s)).Sound) : PortsSound (modPort p f s) := h.setPort p _ hf

theorem PortsSound.clearFaults {s : State} (h : PortsSound s) (p : PortId) : PortsSound (clearFaults p s) := by
  refine h.modPort p _ ?_
  have := h p
  unfold Port.Sound Config.faultLimit at *
  split
  · exact ⟨by simp, by simp, this.2.2⟩
  · exact this

theorem PortsSound.pieceEnds {s : State} (h : PortsSound s) (i : PieceId) (o : PieceOutcome) (a : Option PortId) :
    PortsSound (pieceEnds i o a s) := by
  cases a with
  | none => exact h.of_ports (by simp)
  | some q =>
    unfold Machine.pieceEnds
    split
    · exact h
    · have hd : PortsSound (detachPiece i s) := h.of_ports (by simp)
      dsimp only
      split
      · exact (hd.clearFaults q).of_ports (by simp)
      · exact hd.clearFaults q
      · exact hd.clearFaults q

theorem PortsSound.sourceEnds {s : State} (h : PortsSound s) (i : PieceId) : PortsSound (sourceEnds i s) := by
  unfold Machine.sourceEnds
  dsimp only
  repeat' split
  · exact h
  · exact h.pieceEnds _ _ _
  · exact h.of_ports (by simp)
  · exact h.of_ports (by simp)

theorem PortsSound.destEnds {s : State} (h : PortsSound s) (i : PieceId) : PortsSound (destEnds i s) := by
  unfold Machine.destEnds
  dsimp only
  repeat' split
  · exact h
  · exact (h.pieceEnds _ _ _).of_ports (advanceCursor_ports _)
  · exact h.pieceEnds _ _ _

theorem PortsSound.sendCommand {s : State} (h : PortsSound s) (p : PortId) (i : PieceId) (q : Piece) (op : MediaOp)
    (d : Bool) : PortsSound (sendCommand p i q op d s) := by
  have := h p
  refine (h.modPort p (fun x => { x with
      outstanding := some (.piece i op d), received := [],
      pieceTimer := some (Config.pieceTimeMs s.mgu.settings.timeoutCode) }) ?_).of_ports rfl
  unfold Port.Sound at *
  exact ⟨this.1, this.2.1, fun hx => this.2.2 (Or.inr (hx.resolve_left (by simp)))⟩

theorem PortsSound.serveHead {s : State} (h : PortsSound s) (p : PortId) : PortsSound (serveHead s p) := by
  unfold Machine.serveHead
  dsimp only
  repeat' split
  · exact h
  · exact h
  · exact (h.of_ports (t := setPiece _ _ s) rfl).sendCommand _ _ _ _ _
  · exact h

theorem PortsSound.finish {s : State} (h : PortsSound s) : PortsSound (finish s) := by
  have h0 : PortsSound (refreshBlocking s) := h.of_ports (by simp)
  unfold Machine.finish serveHeads allPorts
  simp only [List.foldl_cons, List.foldl_nil]
  exact (((h0.serveHead _).serveHead _).serveHead _).serveHead _

/-- A probe starts at a port that is not at the fault limit. -/
theorem PortsSound.startProbe {s : State} (h : PortsSound s) (p : PortId) (st : PortState)
    (hf : (portOf p s).faults ≠ Config.faultLimit) (hst : st = .probing ∨ st = .recovering) :
    PortsSound (startProbe p st s) := by
  have := h p
  refine (h.modPort p (fun x => { x with
      state := st, outstanding := some .inquiry, received := [], pieceTimer := none, probeTimer := true,
      mrst := false }) ?_).of_ports rfl
  unfold Port.Sound at *
  exact ⟨this.1, fun hx => absurd hx hf, fun _ => hst⟩

/-- A port that is quiet is sound when its state suits its fault count. -/
theorem quietPort_sound (st : PortState) (x : Port) (h : x.faults ≤ Config.faultLimit)
    (hst : x.faults = Config.faultLimit → st = .offline) : (quietPort st x).Sound :=
  ⟨h, hst, by simp [quietPort]⟩

theorem PortsSound.enterDown {s : State} (h : PortsSound s) (p : PortId)
    (hs : (portOf p s).state ≠ .offline) : PortsSound (enterDown p s) := by
  have hp := h p
  have h1 : PortsSound (setFlag .port s) := h.of_ports (by simp)
  have e : portOf p (setFlag .port s) = portOf p s := by unfold portOf; simp
  have h2 : PortsSound (Machine.modPort p (fun x => { quietPort .down x with mrst := false }) (setFlag .port s)) := by
    refine h1.modPort p _ ?_
    rw [e]
    exact ⟨hp.1, fun hx => absurd (hp.2.1 hx) hs, by simp [quietPort]⟩
  exact h2.of_ports (by simp [Machine.enterDown])

/-- A port may enter OFFLINE with any count up to the limit. -/
theorem enterOffline_sound {s : State} (p : PortId) (c : Cause)
    (h : ∀ q, q ≠ p → (portOf q s).Sound) (hp : (portOf p s).faults ≤ Config.faultLimit) :
    PortsSound (enterOffline p c s) := by
  have e : (enterOffline p c s).ports = (Machine.modPort p
      (fun x => { quietPort .offline x with mrst := true, offlinePending := .no }) (setFlag .port s)).ports := by
    simp [enterOffline]
  refine PortsSound.of_ports ?_ e
  intro q
  unfold Machine.modPort Machine.setPort State.setPorts portOf
  by_cases hq : p = q
  · subst hq
    unfold portOf at hp
    simp only [setFlag_ports, Fin.getElem_fin, Vector.getElem_set_self]
    exact ⟨by simpa [quietPort] using hp, by simp [quietPort], by simp [quietPort]⟩
  · have e' : p.val ≠ q.val := fun h => hq (Fin.ext h)
    have := h q (fun h => hq h.symm)
    unfold portOf at this
    simpa [Vector.getElem_set_ne, e'] using this

theorem PortsSound.enterOffline {s : State} (h : PortsSound s) (p : PortId) (c : Cause) :
    PortsSound (enterOffline p c s) := enterOffline_sound p c (fun q _ => h q) (h p).1

@[simp] theorem portOf_setPort_self (p : PortId) (x : Port) (s : State) : portOf p (setPort p x s) = x := by
  simp [portOf, setPort]

theorem portOf_setPort_ne {p q : PortId} (h : p ≠ q) (x : Port) (s : State) :
    portOf q (setPort p x s) = portOf q s := by
  have e : p.val ≠ q.val := fun e => h (Fin.ext e)
  simp [portOf, setPort, Vector.getElem_set_ne, e]

/-- A fault at a port that is not OFFLINE: the count stays within the limit. -/
theorem countFault_spec {s : State} (h : PortsSound s) (p : PortId) (hs : (portOf p s).state ≠ .offline) :
    (∀ q, q ≠ p → (portOf q (countFault p s)) = portOf q s) ∧
    portOf p (countFault p s) = { portOf p s with faults := (portOf p s).faults + 1 } ∧
    (portOf p s).faults + 1 ≤ Config.faultLimit := by
  have e : (countFault p s).ports = (Machine.modPort p (fun x => { x with faults := x.faults + 1 }) s).ports := by
    simp [countFault]
  refine ⟨fun q hq => ?_, ?_, ?_⟩
  · unfold portOf
    rw [e]
    exact portOf_setPort_ne (Ne.symm hq) _ _
  · have := portOf_setPort_self p { portOf p s with faults := (portOf p s).faults + 1 } s
    unfold portOf at *
    rw [e]
    exact this
  · have hp := h p
    unfold Port.Sound at hp
    have : (portOf p s).faults ≠ Config.faultLimit := fun hx => hs (hp.2.1 hx)
    omega

theorem PortsSound.portFault {s : State} (h : PortsSound s) (p : PortId) (i : PieceId)
    (hs : (portOf p s).state = .ready) : PortsSound (portFault p i s) := by
  obtain ⟨ho, hp, hf⟩ := countFault_spec h p (by simp [hs])
  have hsnd := h p
  unfold Machine.portFault
  dsimp only
  split
  · apply enterOffline_sound
    · intro q hq
      have e : portOf q (takeSwitch (pieceFails i 0 .timeout (Machine.modPort p (quietPort .ready) (countFault p s)))) =
          portOf q s := by
        have := portOf_setPort_ne (Ne.symm hq) (quietPort .ready (portOf p (countFault p s))) (countFault p s)
        rw [ho q hq] at this
        unfold portOf at *
        rw [takeSwitch_ports, pieceFails_ports]
        exact this
      rw [e]
      exact h q
    · have e : portOf p (takeSwitch (pieceFails i 0 .timeout (Machine.modPort p (quietPort .ready) (countFault p s)))) =
          quietPort .ready (portOf p (countFault p s)) := by
        have := portOf_setPort_self p (quietPort .ready (portOf p (countFault p s))) (countFault p s)
        unfold portOf at *
        rw [takeSwitch_ports, pieceFails_ports]
        exact this
      rw [e, hp]
      exact hf
  · rename_i hc
    rw [hp] at hc
    have hlt : (portOf p s).faults + 1 ≠ Config.faultLimit := by
      intro hx
      exact hc (Or.inl (by simp only; omega))
    have hcf : PortsSound (countFault p s) := by
      intro q
      by_cases hq : q = p
      · subst hq
        rw [hp]
        exact ⟨hf, fun hx => absurd hx hlt, hsnd.2.2⟩
      · rw [ho q hq]
        exact h q
    have h1 : PortsSound (withdrawClaim p (countFault p s)) := hcf.of_ports (by simp)
    have e1 : portOf p (withdrawClaim p (countFault p s)) = portOf p (countFault p s) := by unfold portOf; simp
    have h2 := h1.startProbe p .recovering (by rw [e1, hp]; exact hlt) (Or.inr rfl)
    exact h2.of_ports (by simp)

theorem PortsSound.probeFails {s : State} (h : PortsSound s) (p : PortId)
    (hs : (portOf p s).state = .probing ∨ (portOf p s).state = .recovering) : PortsSound (probeFails p s) := by
  have hno : (portOf p s).state ≠ .offline := by
    rcases hs with e | e <;> simp [e]
  obtain ⟨ho, hp, hf⟩ := countFault_spec h p hno
  have hsnd := h p
  unfold Machine.probeFails
  dsimp only
  split
  · apply enterOffline_sound
    · intro q hq
      rw [ho q hq]
      exact h q
    · rw [hp]
      exact hf
  · rename_i hc
    rw [hp] at hc
    have hlt : (portOf p s).faults + 1 ≠ Config.faultLimit := by
      intro hx
      exact hc (by simp only; omega)
    have hcf : PortsSound (countFault p s) := by
      intro q
      by_cases hq : q = p
      · subst hq
        rw [hp]
        exact ⟨hf, fun hx => absurd hx hlt, hsnd.2.2⟩
      · rw [ho q hq]
        exact h q
    refine hcf.startProbe p _ (by rw [hp]; exact hlt) ?_
    rw [hp]
    exact hs

/-! ### The events of a port keep every port sound -/

theorem pieceAtMedia_ready {p : PortId} {s : State} {x : PieceId × MediaOp × Bool} (h : pieceAtMedia p s = some x) :
    (portOf p s).state = .ready := by
  unfold pieceAtMedia at h
  split at h
  · assumption
  · contradiction

theorem PortsSound.takeStatus {s : State} (h : PortsSound s) (p : PortId) : PortsSound (takeStatus p s) := by
  have := h p
  refine h.modPort p _ ?_
  unfold Port.Sound at *
  exact ⟨this.1, this.2.1, fun hx => this.2.2 (Or.inr (hx.resolve_left (by simp)))⟩

theorem PortsSound.settlePending {s : State} (h : PortsSound s) (p : PortId) : PortsSound (settlePending p s) := by
  unfold Machine.settlePending
  split
  · exact h
  · exact PortsSound.enterOffline (h.of_ports (takeSwitch_ports _)) _ _

theorem PortsSound.goodStatus {s : State} (h : PortsSound s) (p : PortId) (i : PieceId) (op : MediaOp) (d : Bool) :
    PortsSound (goodStatus p i op d s) := by
  unfold Machine.goodStatus
  repeat' split
  all_goals first
    | exact h
    | exact h.pieceEnds _ _ _
    | exact h.destEnds _
    | exact h.sourceEnds _
    | skip
  · unfold copyReadEnds
    split
    · exact h.of_ports (by simp)
    · exact h.pieceEnds _ _ _
  · unfold readEnds
    split
    · exact h.pieceEnds _ _ _
    · split
      · exact h.pieceEnds _ _ _
      · exact h.of_ports (by simp)
  · unfold verifyPhase
    split
    · dsimp only
      split
      · exact h.of_ports rfl
      · refine PortsSound.sendCommand ?_ _ _ _ _ _
        exact h.of_ports rfl
    · exact h

theorem PortsSound.statusOk {s : State} (h : PortsSound s) (p : PortId) : PortsSound (statusOk p s) := by
  unfold Machine.statusOk
  split
  · exact h
  · dsimp only
    split
    · exact h
    · refine (PortsSound.goodStatus ?_ _ _ _ _).settlePending p
      exact (h.takeStatus p).of_ports (by simp)

theorem PortsSound.statusError {s : State} (h : PortsSound s) (p : PortId) (k : Nat) (e : MediaError) :
    PortsSound (statusError p k e s) := by
  unfold Machine.statusError
  repeat' split
  all_goals first
    | exact h
    | exact PortsSound.settlePending ((h.takeStatus p).of_ports (by simp)) p

theorem PortsSound.statusNotReady {s : State} (h : PortsSound s) (p : PortId) : PortsSound (statusNotReady p s) := by
  unfold Machine.statusNotReady
  split
  · exact h
  · rename_i heq
    exact h.portFault p _ (pieceAtMedia_ready heq)

theorem PortsSound.statusInquiry {s : State} (h : PortsSound s) (p : PortId) (c : Word) (r : Bool) :
    PortsSound (statusInquiry p c r s) := by
  have hp := h p
  unfold Machine.statusInquiry
  split
  · rename_i ho
    have hst := hp.2.2 (Or.inl ho)
    split
    · refine (h.modPort p (fun x => { x with
          state := .ready, capacity := c, outstanding := none, probeTimer := false }) ?_).of_ports (by simp)
      refine ⟨hp.1, fun hx => ?_, by simp⟩
      have := hp.2.1 hx
      rcases hst with e | e <;> rw [e] at this <;> contradiction
    · exact h.probeFails p hst
  · exact h

theorem PortsSound.mediaBlock {s : State} (h : PortsSound s) (p : PortId) (i : Nat) (b : Block) :
    PortsSound (mediaBlock p i b s) := by
  have hp := h p
  unfold Machine.mediaBlock
  repeat' split
  all_goals first
    | exact h
    | exact (h.modPort p (fun x => { x with received := joinSet i x.received }) hp).of_ports rfl

theorem PortsSound.unitAppears {s : State} (h : PortsSound s) (p : PortId) : PortsSound (unitAppears p s) := by
  have hp := h p
  unfold Machine.unitAppears
  split
  · rename_i hd
    refine (h.startProbe p .probing ?_ (Or.inl rfl)).of_ports (by simp)
    intro hx
    have := hp.2.1 hx
    rw [hd] at this
    contradiction
  · exact h

theorem PortsSound.unitGone {s : State} (h : PortsSound s) (p : PortId) : PortsSound (unitGone p s) := by
  unfold Machine.unitGone
  split
  · exact h
  · exact h
  all_goals
    rename_i e
    split
    · exact h.enterDown p (by simp [e])
    · exact h.enterOffline _ _

theorem PortsSound.portOfflineTaken {s : State} (h : PortsSound s) (t : Tag) (p : PortId) :
    PortsSound (portOfflineTaken t p s).1 := by
  have hp := h p
  unfold Machine.portOfflineTaken
  repeat' split
  all_goals first
    | exact h
    | exact h.enterOffline _ _
    | exact h.modPort p (fun x => { x with offlinePending := .yes (some t) }) hp

theorem PortsSound.portOnlineTaken {s : State} (h : PortsSound s) (p : PortId) :
    PortsSound (portOnlineTaken p s) := by
  have hp := h p
  unfold Machine.portOnlineTaken
  dsimp only
  split
  · rename_i ho
    have h1 : PortsSound (setFlag .port (Machine.modPort p (fun x => { x with faults := 0, mrst := false }) s)) := by
      refine (h.modPort p (fun x => { x with faults := 0, mrst := false }) ?_).of_ports (by simp)
      exact ⟨by simp, by simp [Config.faultLimit], hp.2.2⟩
    have e : portOf p (setFlag .port (Machine.modPort p (fun x => { x with faults := 0, mrst := false }) s)) =
        { portOf p s with faults := 0, mrst := false } := by
      have := portOf_setPort_self p { portOf p s with faults := 0, mrst := false } s
      unfold portOf at *
      rw [setFlag_ports]
      exact this
    split
    · exact h1.startProbe p .probing (by rw [e]; simp [Config.faultLimit]) (Or.inl rfl)
    · refine h1.modPort p _ ?_
      rw [e]
      refine ⟨by simp, by simp [Config.faultLimit], fun hx => ?_⟩
      have := hp.2.2 hx
      rw [ho] at this
      simp at this
  · exact h

end Sys2Proof.Machine
end

