-- ==== Sys2Proof/Laws/Supervision.lean ====
section
/-! SUPPORT. The operations of the supervision monitor, the store and the start-up, and that each keeps the supervision
state sound (R145, R152). -/

namespace Sys2Proof.Machine

/-! ### What soundness reads -/

/-- Operations on traffic, the switch of a move among them, keep the supervision state sound. -/
theorem SupervisionSound.of_steady {s t : State} (h : SupervisionSound s) (e : t.steady = s.steady) :
    SupervisionSound t := by
  simp only [State.steady, Prod.mk.injEq] at e
  unfold SupervisionSound at *
  rw [e.2.2.1, e.2.2.2.1, e.2.2.2.2.2.1]
  exact h

theorem SupervisionSound.of_control {s t : State} (h : SupervisionSound s) (e : t.control = s.control) :
    SupervisionSound t := h.of_steady (steady_of_control e)

/-- Soundness reads the supervision state, the mode and whether the store is at rest. -/
theorem SupervisionSound.of_eq {s t : State} (h : SupervisionSound s) (e1 : t.svm = s.svm)
    (e2 : t.mgu.settings.mode = s.mgu.settings.mode) (e3 : t.mst.reading = true → s.mst.reading = true)
    (e4 : t.mst.reading = true → t.mst.op = .idle) : SupervisionSound t := by
  unfold SupervisionSound at *
  rw [e1, e2]
  exact ⟨h.1, h.2.1, h.2.2.1, h.2.2.2.1, h.2.2.2.2.1, fun hr => ⟨(h.2.2.2.2.2 (e3 hr)).1, e4 hr⟩⟩

@[simp] theorem setFlag_svm (f : ChangeFlag) (s : State) : (setFlag f s).svm = s.svm := by cases f <;> rfl
@[simp] theorem setFlag_mst (f : ChangeFlag) (s : State) : (setFlag f s).mst = s.mst := by cases f <;> rfl
@[simp] theorem setFlag_settings (f : ChangeFlag) (s : State) : (setFlag f s).mgu.settings = s.mgu.settings := by
  cases f <;> rfl

theorem svm_of_control {s t : State} (e : t.control = s.control) : t.svm = s.svm := by
  simp only [State.control, Prod.mk.injEq] at e; exact e.2.2.2.1
theorem mst_of_control {s t : State} (e : t.control = s.control) : t.mst = s.mst := by
  simp only [State.control, Prod.mk.injEq] at e; exact e.2.2.1
theorem settings_of_control {s t : State} (e : t.control = s.control) : t.mgu.settings = s.mgu.settings := by
  simp only [State.control, Prod.mk.injEq] at e; exact e.2.2.2.2.2.1
theorem pins_of_control {s t : State} (e : t.control = s.control) : t.pins = s.pins := by
  simp only [State.control, Prod.mk.injEq] at e; exact e.2.1
theorem pending_of_control {s t : State} (e : t.control = s.control) : t.pending = s.pending := by
  simp only [State.control, Prod.mk.injEq] at e; exact e.1

@[simp] theorem abortMove_svm (o : ReqOutcome) (c : Cause) (d : Nat) (b : Bool) (s : State) :
    (abortMove o c d b s).svm = s.svm := svm_of_control (by simp)
@[simp] theorem abortMove_mst (o : ReqOutcome) (c : Cause) (d : Nat) (b : Bool) (s : State) :
    (abortMove o c d b s).mst = s.mst := mst_of_control (by simp)
@[simp] theorem abortMove_settings (o : ReqOutcome) (c : Cause) (d : Nat) (b : Bool) (s : State) :
    (abortMove o c d b s).mgu.settings = s.mgu.settings := settings_of_control (by simp)
@[simp] theorem complete_svm (t : Tag) (o : ReqOutcome) (c : Cause) (r d : Nat) (s : State) :
    (complete t o c r d s).svm = s.svm := svm_of_control (by simp)
@[simp] theorem complete_mst (t : Tag) (o : ReqOutcome) (c : Cause) (r d : Nat) (s : State) :
    (complete t o c r d s).mst = s.mst := mst_of_control (by simp)
@[simp] theorem complete_settings (t : Tag) (o : ReqOutcome) (c : Cause) (r d : Nat) (s : State) :
    (complete t o c r d s).mgu.settings = s.mgu.settings := settings_of_control (by simp)

/-! ### The operations of SVM (R145, R148, R151 to R154) -/

/-- R145: a fresh period touches the timer and its length alone. -/
theorem freshPeriod_svm (s : State) : (freshPeriod s).svm =
    if s.svm.partState = .run ∧ s.mgu.settings.mode ≠ .off then
      { s.svm with timer := freshPhase s.mgu.settings.mode, periodMs := Config.periodMs s.mgu.settings.periodCode }
    else s.svm := by
  unfold freshPeriod; split <;> rfl
@[simp] theorem freshPeriod_mst (s : State) : (freshPeriod s).mst = s.mst := by unfold freshPeriod; split <;> rfl
@[simp] theorem freshPeriod_mgu (s : State) : (freshPeriod s).mgu = s.mgu := by unfold freshPeriod; split <;> rfl
@[simp] theorem setPartState_svm (p : PartState) (s : State) : (setPartState p s).svm =
    { s.svm with partState := p, timer := if p = .run then s.svm.timer else .stopped } := rfl
@[simp] theorem setPartState_mst (p : PartState) (s : State) : (setPartState p s).mst = s.mst := rfl
@[simp] theorem setPartState_mgu (p : PartState) (s : State) : (setPartState p s).mgu = s.mgu := rfl

/-- R153: a fence entry sets the part state and stops the timer; what else it does to SVM is nothing. -/
@[simp] theorem fencePart_svm (s : State) : (fencePart s).svm =
    { s.svm with partState := .fenced, timer := .stopped } := by
  unfold fencePart; dsimp only; split <;> simp
@[simp] theorem fencePart_mst (s : State) : (fencePart s).mst = s.mst := by
  unfold fencePart; dsimp only; split <;> simp
@[simp] theorem fencePart_settings (s : State) : (fencePart s).mgu.settings = s.mgu.settings := by
  unfold fencePart; dsimp only; split <;> simp

/-- R151, R152: adding a cause. -/
theorem addCause_svm (c : FenceCause) (s : State) : (addCause c s).svm =
    if hasCause c s then s.svm
    else if s.svm.partState = .run then
      { s.svm with causes := putCause c true s.svm.causes, partState := .fenced, timer := .stopped }
    else { s.svm with causes := putCause c true s.svm.causes } := by
  unfold addCause; dsimp only
  split
  · rfl
  · by_cases hr : s.svm.partState = .run <;> simp [hr]
@[simp] theorem addCause_mst (c : FenceCause) (s : State) : (addCause c s).mst = s.mst := by
  unfold addCause; dsimp only; (repeat' split) <;> simp
@[simp] theorem addCause_settings (c : FenceCause) (s : State) : (addCause c s).mgu.settings = s.mgu.settings := by
  unfold addCause; dsimp only; (repeat' split) <;> simp

/-- A fresh period in RUN makes the timer suit the mode. -/
theorem SupervisionSound.freshPeriod {s : State}
    (h1 : ¬(s.svm.partState = .run ∧ s.mgu.settings.mode ≠ .off) → s.svm.timer = .stopped)
    (h4 : s.svm.partState = .run → anyCause s.svm.causes = false)
    (h5 : s.svm.partState = .fenced → anyCause s.svm.causes = true)
    (h6 : s.mst.reading = true → s.svm.partState = .loading ∧ s.mst.op = .idle) :
    SupervisionSound (freshPeriod s) := by
  unfold SupervisionSound
  rw [freshPeriod_svm, freshPeriod_mst, freshPeriod_mgu]
  split
  · rename_i hr
    obtain ⟨hr, hm⟩ := hr
    cases hmode : s.mgu.settings.mode <;> simp_all [freshPhase]
  · rename_i hr
    have ht := h1 hr
    rw [ht]
    refine ⟨⟨fun _ => hr, fun _ => rfl⟩, by simp, by simp, h4, h5, h6⟩

theorem SupervisionSound.addCause {s : State} (h : SupervisionSound s) (c : FenceCause) :
    SupervisionSound (addCause c s) := by
  unfold SupervisionSound at *
  rw [addCause_svm, addCause_mst, addCause_settings]
  split
  · exact h
  · split
    · rename_i hr
      have hread : s.mst.reading ≠ true := fun hx => by have := (h.2.2.2.2.2 hx).1; simp [hr] at this
      cases c <;> simp [anyCause, putCause, hread]
    · rename_i hr
      refine ⟨h.1, h.2.1, h.2.2.1, fun hx => absurd hx hr, fun _ => ?_, h.2.2.2.2.2⟩
      cases c <;> simp [anyCause, putCause]

theorem SupervisionSound.removeCause {s : State} (h : SupervisionSound s) (c : FenceCause) :
    SupervisionSound (removeCause c s) := by
  unfold Machine.removeCause
  split
  · rename_i hc
    dsimp only
    have hnr : s.svm.partState ≠ .run := by
      intro hr
      have := h.2.2.2.1 hr
      cases c <;> simp_all [anyCause, hasCause]
    have hst : s.svm.timer = .stopped := h.1.mpr (fun hx => hnr hx.1)
    split
    · rename_i hf
      simp only [setFlag_svm, State.setSvm_svm] at hf
      have hread : s.mst.reading ≠ true := fun hx => by have := (h.2.2.2.2.2 hx).1; simp [hf.1] at this
      apply SupervisionSound.freshPeriod
      · simp [hst]
      · simpa using hf.2
      · simp
      · simp [hread]
    · rename_i hf
      simp only [setFlag_svm, State.setSvm_svm, not_and] at hf
      unfold SupervisionSound
      simp only [setFlag_svm, setFlag_mst, setFlag_settings, State.setSvm_svm, State.setSvm_mst, State.setSvm_mgu]
      refine ⟨h.1, h.2.1, h.2.2.1, fun hx => absurd hx hnr, fun hx => by simpa using hf hx, h.2.2.2.2.2⟩
  · exact h

theorem SupervisionSound.failure {s : State} (h : SupervisionSound s) : SupervisionSound (supervisionFailure s) := by
  unfold supervisionFailure
  split
  · exact h.addCause _
  · apply SupervisionSound.freshPeriod
    · exact h.1.mpr
    · exact h.2.2.2.1
    · exact h.2.2.2.2.1
    · exact h.2.2.2.2.2

/-- R152: the part enters service from a state in which the timer is stopped. -/
theorem SupervisionSound.enterService {s : State} (ht : s.svm.timer = .stopped) (hr : s.mst.reading = false) :
    SupervisionSound (enterService s) := by
  unfold Machine.enterService
  split
  · rename_i hc
    unfold SupervisionSound
    simp [hc, hr]
  · rename_i hc
    apply SupervisionSound.freshPeriod
    · simp [ht]
    · simpa using hc
    · simp
    · simp [hr]

theorem SupervisionSound.enterBare {s : State} (hr : s.mst.reading = false) : SupervisionSound (enterBare s) := by
  unfold Machine.enterBare SupervisionSound
  dsimp only
  split <;> simp [hr]

theorem SupervisionSound.judgeKeepalive {s : State} (h : SupervisionSound s) :
    SupervisionSound (judgeKeepalive s).1 := by
  unfold Machine.judgeKeepalive
  split
  · split
    · exact SupervisionSound.freshPeriod h.1.mpr h.2.2.2.1 h.2.2.2.2.1 h.2.2.2.2.2
    · exact SupervisionSound.freshPeriod h.1.mpr h.2.2.2.1 h.2.2.2.2.1 h.2.2.2.2.2
    · exact h.failure
    · exact h
  · exact h

end Sys2Proof.Machine
end

