-- ==== Sys2Proof/Laws/Events.lean ====
section
/-! SUPPORT. Each event keeps the ports, the supervision state and the staging map sound (R91, R115, R145, R152). -/

namespace Sys2Proof.Machine

/-- R115: soundness of the staging map reads XMP alone. -/
theorem StagingSound.of_steady {s t : State} (h : StagingSound s) (e : t.steady = s.steady) : StagingSound t := by
  simp only [State.steady, Prod.mk.injEq] at e
  unfold StagingSound at *
  rw [e.2.2.2.2.2.2.2.1, e.2.2.2.2.2.2.2.2]
  exact h

theorem StagingSound.of_control {s t : State} (h : StagingSound s) (e : t.control = s.control) : StagingSound t :=
  h.of_steady (steady_of_control e)

theorem StagingSound.of_xmp {s t : State} (h : StagingSound s) (e1 : t.xmp.staging = s.xmp.staging)
    (e2 : t.xmp.stagingOpen = s.xmp.stagingOpen) : StagingSound t := by
  unfold StagingSound at *; rw [e1, e2]; exact h

/-! ### The parts of XMP that SVM leaves alone -/

@[simp] theorem setFlag_xmp (f : ChangeFlag) (s : State) : (setFlag f s).xmp = s.xmp := by cases f <;> rfl
@[simp] theorem freshPeriod_xmp (s : State) : (freshPeriod s).xmp = s.xmp := by unfold freshPeriod; split <;> rfl
@[simp] theorem freshPeriod_ports (s : State) : (freshPeriod s).ports = s.ports := by unfold freshPeriod; split <;> rfl
@[simp] theorem setPartState_xmp (p : PartState) (s : State) : (setPartState p s).xmp = s.xmp := rfl
@[simp] theorem setPartState_ports (p : PartState) (s : State) : (setPartState p s).ports = s.ports := rfl
@[simp] theorem setLapse_xmp (b : Bool) (s : State) : (setLapse b s).xmp = s.xmp := rfl
@[simp] theorem setLapse_ports (b : Bool) (s : State) : (setLapse b s).ports = s.ports := rfl

theorem staging_of_control {s t : State} (e : t.control = s.control) :
    t.xmp.staging = s.xmp.staging ∧ t.xmp.stagingOpen = s.xmp.stagingOpen ∧ t.xmp.generation = s.xmp.generation := by
  simp only [State.control, Prod.mk.injEq] at e
  exact ⟨e.2.2.2.2.2.2.2.2.1, e.2.2.2.2.2.2.2.2.2, e.2.2.2.2.2.2.2.1⟩

/-- Operations of SVM keep staging, its flag and the generation, and the ports. -/
def KeepsMaps (f : State → State) : Prop := ∀ s,
  (f s).xmp.staging = s.xmp.staging ∧ (f s).xmp.stagingOpen = s.xmp.stagingOpen ∧
    (f s).xmp.generation = s.xmp.generation ∧ (f s).ports = s.ports

theorem fencePart_keeps : KeepsMaps fencePart := by
  intro s
  unfold fencePart
  dsimp only
  split
  · simp
  · refine ⟨?_, ?_, ?_, by simp⟩
    · exact (staging_of_control (abortMove_control _ _ _ _ _)).1.trans (by simp)
    · exact (staging_of_control (abortMove_control _ _ _ _ _)).2.1.trans (by simp)
    · exact (staging_of_control (abortMove_control _ _ _ _ _)).2.2.trans (by simp)

theorem addCause_keeps (c : FenceCause) : KeepsMaps (addCause c) := by
  intro s
  unfold addCause
  dsimp only
  (repeat' split) <;> simp [fencePart_keeps _]

theorem removeCause_keeps (c : FenceCause) : KeepsMaps (removeCause c) := by
  intro s
  unfold removeCause
  dsimp only
  (repeat' split) <;> simp

theorem supervisionFailure_keeps : KeepsMaps supervisionFailure := by
  intro s
  unfold supervisionFailure
  split
  · exact addCause_keeps _ _
  · simp

theorem judgeKeepalive_keeps : KeepsMaps fun s => (judgeKeepalive s).1 := by
  intro s
  dsimp only
  unfold judgeKeepalive
  (repeat' split) <;> simp [supervisionFailure_keeps _]

theorem enterService_keeps : KeepsMaps enterService := by
  intro s
  unfold enterService
  split <;> simp

theorem enterBare_keeps : KeepsMaps enterBare := by
  intro s
  unfold enterBare
  dsimp only
  split <;> simp

theorem StagingSound.keeps {s : State} {f : State → State} (h : StagingSound s) (k : KeepsMaps f) :
    StagingSound (f s) := h.of_xmp (k s).1 (k s).2.1

theorem PortsSound.keeps {s : State} {f : State → State} (h : PortsSound s) (k : KeepsMaps f) :
    PortsSound (f s) := h.of_ports (k s).2.2.2

/-! ### The store (R129 to R137, R141) -/

@[simp] theorem placeWrite_reading (step : SaveStep) (img : SaveImage) (m : Mst) :
    (placeWrite step img m).reading = m.reading := by cases step <;> rfl
@[simp] theorem spoilWrite_reading (cut : Bool) (step : SaveStep) (img : SaveImage) (n : Nat) (m : Mst) :
    (spoilWrite cut step img n m).reading = m.reading := by cases step <;> rfl
@[simp] theorem endStoreOp_svm (k : StoreKind) (o : ReqOutcome) (c : Cause) (s : State) :
    (endStoreOp k o c s).svm = s.svm := by simp [endStoreOp]
@[simp] theorem endStoreOp_xmp (k : StoreKind) (o : ReqOutcome) (c : Cause) (s : State) :
    (endStoreOp k o c s).xmp = s.xmp := by simp [endStoreOp]
@[simp] theorem endStoreOp_ports (k : StoreKind) (o : ReqOutcome) (c : Cause) (s : State) :
    (endStoreOp k o c s).ports = s.ports := by simp [endStoreOp]
@[simp] theorem endStoreOp_settings (k : StoreKind) (o : ReqOutcome) (c : Cause) (s : State) :
    (endStoreOp k o c s).mgu.settings = s.mgu.settings := by simp [endStoreOp]
@[simp] theorem endStoreOp_mst (k : StoreKind) (o : ReqOutcome) (c : Cause) (s : State) :
    (endStoreOp k o c s).mst = { s.mst with op := .idle, lastOp := some ⟨k, o, c⟩ } := by simp [endStoreOp]
@[simp] theorem reportStore_control (t : Option Tag) (o : ReqOutcome) (c : Cause) (d : Nat) (s : State) :
    (reportStore t o c d s).control = s.control := by cases t <;> simp [reportStore]
@[simp] theorem reportStore_ports (t : Option Tag) (o : ReqOutcome) (c : Cause) (d : Nat) (s : State) :
    (reportStore t o c d s).ports = s.ports := by cases t <;> simp [reportStore]
@[simp] theorem spoilStore_xmp (cut : Bool) (s : State) : (spoilStore cut s).xmp = s.xmp := by
  unfold spoilStore; split <;> rfl
@[simp] theorem spoilStore_ports (cut : Bool) (s : State) : (spoilStore cut s).ports = s.ports := by
  unfold spoilStore; split <;> rfl
@[simp] theorem spoilStore_svm (cut : Bool) (s : State) : (spoilStore cut s).svm = s.svm := by
  unfold spoilStore; split <;> rfl
@[simp] theorem spoilStore_mgu (cut : Bool) (s : State) : (spoilStore cut s).mgu = s.mgu := by
  unfold spoilStore; split <;> rfl
@[simp] theorem spoilStore_reading (cut : Bool) (s : State) :
    (spoilStore cut s).mst.reading = s.mst.reading := by
  unfold spoilStore; split <;> simp

/-- While a store operation runs the start-up read does not. -/
theorem SupervisionSound.notReading {s : State} (h : SupervisionSound s) (ho : s.mst.op ≠ .idle) :
    s.mst.reading = false := by
  cases hr : s.mst.reading
  · rfl
  · exact absurd (h.2.2.2.2.2 hr).2 ho

theorem SupervisionSound.goodWriteEnd {s : State} (h : SupervisionSound s) : SupervisionSound (goodWriteEnd s) := by
  unfold Machine.goodWriteEnd
  split
  · exact h
  · rename_i ho
    have hr := h.notReading (by rw [ho]; simp)
    dsimp only
    split
    · exact h.of_eq rfl rfl (by simp) (by simp [hr])
    · unfold saveSucceeds
      refine (h.of_eq (t := State.setMst _ _) ?_ ?_ ?_ ?_).of_control (reportStore_control _ _ _ _ _) <;> simp [hr]
  · rename_i ho
    have hr := h.notReading (by rw [ho]; simp)
    dsimp only
    split
    · refine (h.of_eq (t := endStoreOp _ _ _ _) ?_ ?_ ?_ ?_).of_control (reportStore_control _ _ _ _ _) <;> simp [hr]
    · refine SupervisionSound.of_control ?_ (reportStore_control _ _ _ _ _)
      apply SupervisionSound.enterBare
      simp [hr]

theorem SupervisionSound.badWriteEnd {s : State} (h : SupervisionSound s) : SupervisionSound (badWriteEnd s) := by
  unfold Machine.badWriteEnd
  split
  · exact h
  all_goals
    rename_i ho
    have hr := h.notReading (by rw [ho]; simp)
    refine (h.of_eq (t := endStoreOp _ _ _ _) ?_ ?_ ?_ ?_).of_control (reportStore_control _ _ _ _ _) <;> simp [hr]

theorem SupervisionSound.cutOffStore {s : State} (h : SupervisionSound s) : SupervisionSound (cutOffStore s) :=
  h.of_eq (by simp [Machine.cutOffStore]) (by simp [Machine.cutOffStore]) (by simp [Machine.cutOffStore])
    (by simp [Machine.cutOffStore])

theorem SupervisionSound.readEnd {s : State} (h : SupervisionSound s) : SupervisionSound (readEnd s) := by
  unfold Machine.readEnd
  split
  · rename_i hr
    have hl := (h.2.2.2.2.2 hr).1
    have ht : s.svm.timer = .stopped := h.1.mpr (by simp [hl])
    unfold loadStore
    dsimp only
    split
    · exact SupervisionSound.enterService (by simpa using ht) rfl
    · exact SupervisionSound.enterService (by simpa using ht) rfl
    · unfold SupervisionSound
      simp
  · exact h

theorem StagingSound.goodWriteEnd {s : State} (h : StagingSound s) : StagingSound (goodWriteEnd s) := by
  unfold Machine.goodWriteEnd
  split
  · exact h
  · dsimp only
    split
    · exact h.of_xmp rfl rfl
    · exact (h.of_xmp (t := State.setMst _ _) (by simp) (by simp)).of_control (reportStore_control _ _ _ _ _)
  · dsimp only
    split
    · exact (h.of_xmp (t := endStoreOp _ _ _ _) (by simp) (by simp)).of_control (reportStore_control _ _ _ _ _)
    · refine StagingSound.of_control ?_ (reportStore_control _ _ _ _ _)
      exact StagingSound.keeps (f := enterBare) (fun _ => rfl) enterBare_keeps

theorem StagingSound.badWriteEnd {s : State} (h : StagingSound s) : StagingSound (badWriteEnd s) := by
  unfold Machine.badWriteEnd
  split
  · exact h
  all_goals exact (h.of_xmp (t := endStoreOp _ _ _ _) (by simp) (by simp)).of_control (reportStore_control _ _ _ _ _)

theorem StagingSound.readEnd {s : State} (h : StagingSound s) : StagingSound (readEnd s) := by
  unfold Machine.readEnd
  split
  · unfold loadStore
    dsimp only
    split
    · exact StagingSound.keeps (f := enterService) (h.of_xmp rfl rfl) enterService_keeps
    · exact StagingSound.keeps (f := enterService) (h.of_xmp rfl rfl) enterService_keeps
    · exact h.of_xmp rfl rfl
  · exact h

@[simp] theorem goodWriteEnd_ports (s : State) : (goodWriteEnd s).ports = s.ports := by
  unfold goodWriteEnd
  dsimp only
  (repeat' split) <;> simp [saveSucceeds, unlockTakesEffect, (enterBare_keeps _).2.2.2]

@[simp] theorem badWriteEnd_ports (s : State) : (badWriteEnd s).ports = s.ports := by
  unfold badWriteEnd
  split <;> simp

@[simp] theorem readEnd_ports (s : State) : (readEnd s).ports = s.ports := by
  unfold readEnd loadStore
  dsimp only
  (repeat' split) <;> simp [(enterService_keeps _).2.2.2]

/-! ### Start-up (R139) -/

@[simp] theorem startProbe_keeps (p : PortId) (st : PortState) (s : State) :
    (startProbe p st s).svm = s.svm ∧ (startProbe p st s).mgu = s.mgu ∧ (startProbe p st s).mst = s.mst ∧
      (startProbe p st s).xmp = s.xmp := ⟨rfl, rfl, rfl, rfl⟩

@[simp] theorem wakePort_control (s : State) (p : PortId) : (wakePort s p).control = s.control := by
  unfold wakePort; split <;> simp

theorem PortsSound.wakePort {s : State} (h : PortsSound s) (p : PortId)
    (hf : (portOf p s).faults ≠ Config.faultLimit) : PortsSound (wakePort s p) := by
  unfold Machine.wakePort
  split
  · exact h.startProbe p .probing hf (Or.inl rfl)
  · exact h

/-- A wake-up touches its own port and leaves its fault count. -/
theorem wakePort_faults (s : State) (p q : PortId) : (portOf q (wakePort s p)).faults = (portOf q s).faults := by
  unfold wakePort
  split
  · by_cases e : p = q
    · subst e
      show (portOf p (setPort p _ s)).faults = _
      simp
    · show (portOf q (setPort p _ s)).faults = _
      rw [portOf_setPort_ne e]
  · rfl

theorem startUp_portsSound (c : StartCause) (s : State) : PortsSound (startUp c s) := by
  have h0 : ∀ q, (portOf q (startValues c s)).faults = 0 := by
    intro q
    simp [portOf, startValues, Port.reset]
  have hs : PortsSound (startValues c s) := by
    intro q
    simp [portOf, startValues, Port.reset, Port.Sound, Config.faultLimit]
  unfold startUp allPorts
  simp only [List.foldl_cons, List.foldl_nil]
  refine PortsSound.wakePort (PortsSound.wakePort (PortsSound.wakePort (PortsSound.wakePort hs 0 ?_) 1 ?_) 2 ?_) 3 ?_
    <;> simp [wakePort_faults, h0, Config.faultLimit]

theorem startUp_control (c : StartCause) (s : State) : (startUp c s).control =
    (s.pending, { s.pins with started := true }, ⟨s.mst.header, s.mst.rows, .idle, true, false, .invalid, none⟩,
      ⟨.loading, .stopped, 0, false, ⟨false, s.pins.wpnLow⟩⟩, s.draws, Settings.default, c, 0, ExtMap.empty,
      false) := by
  unfold startUp
  rw [foldl_control _ fun s p => wakePort_control s p]
  rfl

theorem startUp_supervisionSound (c : StartCause) (s : State) : SupervisionSound (startUp c s) := by
  have e := startUp_control c s
  simp only [State.control, Prod.mk.injEq] at e
  unfold SupervisionSound
  rw [e.2.2.1, e.2.2.2.1, e.2.2.2.2.2.1]
  simp

theorem startUp_stagingSound (c : StartCause) (s : State) : StagingSound (startUp c s) := by
  have e := startUp_control c s
  simp only [State.control, Prod.mk.injEq] at e
  intro _
  exact e.2.2.2.2.2.2.2.2.1

/-! ### Management requests at MGU (R160) -/

theorem mguSetup_supervisionSound {s : State} (h : SupervisionSound s) (t : Tag) (e : Entry) :
    SupervisionSound (mguSetup t e s) := by
  unfold mguSetup
  split
  · exact h.of_control (by simp)
  · rename_i set _
    split
    · exact h.failure.of_control (by simp)
    · rename_i hre
      dsimp only
      refine SupervisionSound.of_control ?_ (complete_control _ _ _ _ _ _)
      split
      · rename_i hm
        have ht : s.svm.timer = .stopped := h.1.mpr (by simp [hm.1])
        apply SupervisionSound.freshPeriod
        · simp [ht]
        · exact h.2.2.2.1
        · exact h.2.2.2.2.1
        · exact h.2.2.2.2.2
      · rename_i hm
        by_cases hrun : s.svm.partState = .run
        · have hmode : set.mode = s.mgu.settings.mode := by
            by_cases ho : s.mgu.settings.mode = .off
            · rw [ho] at hm ⊢
              simpa using hm
            · simp [retimes, hrun, ho] at hre
              exact hre.1
          exact h.of_eq rfl hmode (by simp) (fun hr => (h.2.2.2.2.2 hr).2)
        · have ht : s.svm.timer = .stopped := h.1.mpr (by simp [hrun])
          unfold SupervisionSound
          simp only [State.setMgu_svm, State.setMgu_mgu, State.setMgu_mst, ht]
          exact ⟨by simp [hrun], by simp, by simp, h.2.2.2.1, h.2.2.2.2.1, h.2.2.2.2.2⟩

theorem KeepsMaps.complete {f : State → State} (k : KeepsMaps f) (t : Tag) (o : ReqOutcome) (c : Cause) (r : Nat)
    (d : State → Nat) : KeepsMaps fun s => complete t o c r (d (f s)) (f s) := by
  intro s
  have e := staging_of_control (complete_control t o c r (d (f s)) (f s))
  have k := k s
  exact ⟨e.1.trans k.1, e.2.1.trans k.2.1, e.2.2.trans k.2.2.1, (complete_ports _ _ _ _ _ _).trans k.2.2.2⟩

theorem mguSetup_keeps (t : Tag) (e : Entry) : KeepsMaps (mguSetup t e) := by
  intro s
  unfold mguSetup
  split
  · exact KeepsMaps.complete (f := id) (fun _ => ⟨rfl, rfl, rfl, rfl⟩) t _ _ 0 (fun _ => 0) s
  · split
    · exact KeepsMaps.complete supervisionFailure_keeps t _ _ 0 (fun _ => 0) s
    · dsimp only
      have := KeepsMaps.complete (f := fun s => s) (fun _ => ⟨rfl, rfl, rfl, rfl⟩) t .good .none 0 (fun _ => 0)
      split
      · have h2 := this (freshPeriod (s.setMgu { s.mgu with settings := by assumption }))
        simpa using h2
      · have h2 := this (s.setMgu { s.mgu with settings := by assumption })
        simpa using h2

/-! ### All three at once -/

/-- An operation that keeps the ports, the supervision state and the staging map sound. -/
def KeepsSound (f : State → State) : Prop :=
  (∀ s, PortsSound s → PortsSound (f s)) ∧ (∀ s, SupervisionSound s → SupervisionSound (f s)) ∧
    (∀ s, StagingSound s → StagingSound (f s))

/-- An operation on traffic keeps all three when it keeps the ports. -/
theorem KeepsSound.traffic {f : State → State} (hc : ∀ s, (f s).control = s.control)
    (hp : ∀ s, PortsSound s → PortsSound (f s)) : KeepsSound f :=
  ⟨hp, fun s h => h.of_control (hc s), fun s h => h.of_control (hc s)⟩

theorem KeepsSound.quiet {f : State → State} (hc : ∀ s, (f s).control = s.control)
    (hp : ∀ s, (f s).ports = s.ports) : KeepsSound f := .traffic hc fun s h => h.of_ports (hp s)

theorem KeepsSound.maps {f : State → State} (k : KeepsMaps f)
    (h : ∀ s, SupervisionSound s → SupervisionSound (f s)) : KeepsSound f :=
  ⟨fun _ hs => hs.keeps k, h, fun _ hs => hs.keeps k⟩

theorem KeepsSound.comp {f g : State → State} (hf : KeepsSound f) (hg : KeepsSound g) :
    KeepsSound fun s => f (g s) :=
  ⟨fun s h => hf.1 _ (hg.1 s h), fun s h => hf.2.1 _ (hg.2.1 s h), fun s h => hf.2.2 _ (hg.2.2 s h)⟩

theorem KeepsSound.ite {c : State → Prop} [∀ s, Decidable (c s)] {f g : State → State} (hf : KeepsSound f)
    (hg : KeepsSound g) : KeepsSound fun s => if c s then f s else g s :=
  ⟨fun s h => by dsimp only; split <;> simp [hf.1 s h, hg.1 s h],
    fun s h => by dsimp only; split <;> simp [hf.2.1 s h, hg.2.1 s h],
    fun s h => by dsimp only; split <;> simp [hf.2.2 s h, hg.2.2 s h]⟩

theorem KeepsSound.id : KeepsSound fun s => s := ⟨fun _ h => h, fun _ h => h, fun _ h => h⟩

/-- All three soundness facts of one state. -/
def Sound3 (s t : State) : Prop :=
  (PortsSound s → PortsSound t) ∧ (SupervisionSound s → SupervisionSound t) ∧ (StagingSound s → StagingSound t)

theorem KeepsSound.at {f : State → State} (k : KeepsSound f) (s : State) : Sound3 s (f s) :=
  ⟨k.1 s, k.2.1 s, k.2.2 s⟩

theorem KeepsSound.of_at {f : State → State} (k : ∀ s, Sound3 s (f s)) : KeepsSound f :=
  ⟨fun s => (k s).1, fun s => (k s).2.1, fun s => (k s).2.2⟩

theorem Sound3.refl (s : State) : Sound3 s s := ⟨fun h => h, fun h => h, fun h => h⟩

theorem Sound3.trans {s t u : State} (h : Sound3 s t) (k : Sound3 t u) : Sound3 s u :=
  ⟨fun x => k.1 (h.1 x), fun x => k.2.1 (h.2.1 x), fun x => k.2.2 (h.2.2 x)⟩

theorem Sound3.quiet {s t : State} (hc : t.control = s.control) (hp : t.ports = s.ports) : Sound3 s t :=
  ⟨fun h => h.of_ports hp, fun h => h.of_control hc, fun h => h.of_control hc⟩

theorem Sound3.complete {s t : State} (h : Sound3 s t) (tag : Tag) (o : ReqOutcome) (c : Cause) (r d : Nat) :
    Sound3 s (complete tag o c r d t) := h.trans (.quiet (by simp) (by simp))

/-! ### The operations of SVM, MST and the start-up, bundled -/

theorem addCause_sound (c : FenceCause) : KeepsSound (addCause c) :=
  .maps (addCause_keeps c) fun _ h => h.addCause c
theorem removeCause_sound (c : FenceCause) : KeepsSound (removeCause c) :=
  .maps (removeCause_keeps c) fun _ h => h.removeCause c
theorem supervisionFailure_sound : KeepsSound supervisionFailure :=
  .maps supervisionFailure_keeps fun _ h => h.failure
theorem judgeKeepalive_sound : KeepsSound fun s => (judgeKeepalive s).1 :=
  .maps judgeKeepalive_keeps fun _ h => h.judgeKeepalive
theorem mguSetup_sound (t : Tag) (e : Entry) : KeepsSound (mguSetup t e) :=
  .maps (mguSetup_keeps t e) fun _ h => mguSetup_supervisionSound h t e
theorem goodWriteEnd_sound : KeepsSound goodWriteEnd :=
  ⟨fun _ h => h.of_ports (by simp), fun _ h => h.goodWriteEnd, fun _ h => h.goodWriteEnd⟩
theorem badWriteEnd_sound : KeepsSound badWriteEnd :=
  ⟨fun _ h => h.of_ports (by simp), fun _ h => h.badWriteEnd, fun _ h => h.badWriteEnd⟩
theorem readEnd_sound : KeepsSound readEnd :=
  ⟨fun _ h => h.of_ports (by simp), fun _ h => h.readEnd, fun _ h => h.readEnd⟩
theorem cutOffStore_sound : KeepsSound cutOffStore :=
  ⟨fun _ h => h.of_ports (by simp [cutOffStore]), fun _ h => h.cutOffStore,
    fun _ h => h.of_xmp (by simp [cutOffStore]) (by simp [cutOffStore])⟩
theorem startUp_sound (c : StartCause) : KeepsSound (startUp c) :=
  ⟨fun _ _ => startUp_portsSound c _, fun _ _ => startUp_supervisionSound c _, fun _ _ => startUp_stagingSound c _⟩
theorem setLapse_sound (b : Bool) : KeepsSound (setLapse b) :=
  ⟨fun _ h => h.of_ports rfl, fun s h => by
    unfold SupervisionSound at *
    exact h, fun _ h => h.of_xmp rfl rfl⟩
theorem finish_sound : KeepsSound finish := .traffic (by simp) fun _ h => h.finish
theorem linkFlag_sound (f : ChangeFlag) : KeepsSound (setFlag f) := .quiet (by simp) (by simp)

/-! ### What MGU does with a request (R160) -/

@[simp] theorem mguHolds_control (x : MguExec) (t : Tag) (k : Kind) (s : State) :
    (mguHolds x t k s).control = s.control := rfl
@[simp] theorem mguHolds_ports (x : MguExec) (t : Tag) (k : Kind) (s : State) :
    (mguHolds x t k s).ports = s.ports := rfl
@[simp] theorem mguIdle_control (s : State) : (mguIdle s).control = s.control := rfl
@[simp] theorem mguIdle_ports (s : State) : (mguIdle s).ports = s.ports := rfl
@[simp] theorem emptyBuffer_control (s : State) : (emptyBuffer s).control = s.control := rfl
@[simp] theorem emptyBuffer_ports (s : State) : (emptyBuffer s).ports = s.ports := rfl
@[simp] theorem fillBuffer_control (i : Fin 2) (b : Block) (s : State) : (fillBuffer i b s).control = s.control := rfl
@[simp] theorem fillBuffer_ports (i : Fin 2) (b : Block) (s : State) : (fillBuffer i b s).ports = s.ports := rfl
@[simp] theorem clearWithdrawn_control (t : Tag) (s : State) : (clearWithdrawn t s).control = s.control := rfl
@[simp] theorem clearWithdrawn_ports (t : Tag) (s : State) : (clearWithdrawn t s).ports = s.ports := rfl
@[simp] theorem clearFlags_control (s : State) : (clearFlags s).control = s.control := rfl
@[simp] theorem clearFlags_ports (s : State) : (clearFlags s).ports = s.ports := rfl

theorem closeStaging_sound3 (s : State) : Sound3 s (closeStaging s) :=
  ⟨fun h => h.of_ports rfl, fun h => h.of_eq rfl rfl (fun x => x) (fun x => (h.2.2.2.2.2 x).2), fun _ _ => rfl⟩

theorem startSave_sound3 (b : Bool) (t : Tag) (s : State) (hl : s.svm.partState ≠ .loading) :
    Sound3 s (startSave b t s) := by
  unfold startSave
  split
  · exact (Sound3.refl s).complete _ _ _ _ _
  · refine ⟨fun h => h.of_ports rfl, fun h => h.of_eq rfl rfl (fun x => x) (fun x => ?_), fun h => h.of_xmp rfl rfl⟩
    exact absurd (h.2.2.2.2.2 x).1 hl

theorem startUnlock_sound3 (t : Tag) (s : State) (hl : s.svm.partState ≠ .loading) : Sound3 s (startUnlock t s) := by
  unfold startUnlock
  split
  · exact (Sound3.refl s).complete _ _ _ _ _
  · refine ⟨fun h => h.of_ports rfl, fun h => h.of_eq rfl rfl (fun x => x) (fun x => ?_), fun h => h.of_xmp rfl rfl⟩
    exact absurd (h.2.2.2.2.2 x).1 hl

theorem startMove_control (t : Tag) (a b c : Word) (s : State) : (startMove t a b c s).control = s.control := by
  unfold startMove
  split
  · simp
  · simp

theorem mguMapCommit_sound3 (t : Tag) (s : State) (hl : s.svm.partState ≠ .loading) :
    Sound3 s (mguMapCommit t s) := by
  unfold mguMapCommit
  split
  · exact (Sound3.refl s).complete _ _ _ _ _
  · refine Sound3.complete ?_ _ _ _ _ _
    unfold installMap
    dsimp only
    split
    · rename_i hb
      refine ⟨fun h => ?_, fun h => ?_, fun h => ?_⟩
      · exact PortsSound.keeps (f := enterService) (h.of_ports (State.setXmp_ports _ s)) enterService_keeps
      · have ht : s.svm.timer = .stopped := h.1.mpr (fun hx => by
          rw [State.setXmp_svm] at hb
          rw [hb] at hx
          exact absurd hx.1 (by simp))
        refine SupervisionSound.enterService ht ?_
        cases hr : s.mst.reading
        · simpa using hr
        · exact absurd (h.2.2.2.2.2 hr).1 hl
      · exact StagingSound.keeps (f := enterService) (fun _ => rfl) enterService_keeps
    · exact ⟨fun h => h.of_ports rfl, fun h => h.of_eq rfl rfl (fun x => x) (fun x => (h.2.2.2.2.2 x).2), fun _ _ => rfl⟩

theorem mguActs_sound3 (t : Tag) (e : Entry) (s : State) (hl : s.svm.partState ≠ .loading) :
    Sound3 s (mguActs t e s) := by
  unfold mguActs
  split
  · unfold mguIdentify
    exact .quiet (by simp) (by simp)
  · unfold mguStatus
    exact .quiet (by simp) (by simp)
  · exact (mguSetup_sound t e).at s
  · unfold mguUnfence
    refine Sound3.complete ?_ _ _ _ _ _
    exact ((setLapse_sound false).comp (removeCause_sound .supervision)).at s
  · unfold mguMapOpen
    split
    · exact (Sound3.refl s).complete _ _ _ _ _
    · dsimp only
      refine Sound3.complete ?_ _ _ _ _ _
      refine ⟨fun h => h.of_ports rfl, fun h => h.of_eq rfl rfl (fun x => x) (fun x => (h.2.2.2.2.2 x).2), fun _ => ?_⟩
      intro hx
      simp at hx
  · unfold mguMapStage
    split
    · exact (Sound3.refl s).complete _ _ _ _ _
    · exact .quiet (by simp) (by simp)
  · exact mguMapCommit_sound3 t s hl
  · unfold mguMapDiscard
    refine Sound3.complete ?_ _ _ _ _ _
    split
    · exact closeStaging_sound3 s
    · exact Sound3.refl s
  · unfold mguMapRead
    split
    · exact (Sound3.refl s).complete _ _ _ _ _
    · unfold sendWindow
      dsimp only
      generalize windowBlock _ _ _ 0 s = b0
      generalize windowBlock _ _ _ 1 s = b1
      split <;> exact .quiet (by simp) (by simp)
    · exact Sound3.refl s
  · exact startSave_sound3 _ t s hl
  · exact startSave_sound3 _ t s hl
  · exact startUnlock_sound3 t s hl
  · exact .quiet (startMove_control _ _ _ _ _) (by simp)
  · unfold mguPort
    split
    · exact (Sound3.refl s).complete _ _ _ _ _
    · rename_i p _
      split
      · have k : Sound3 s (portOfflineTaken t p s).1 :=
          (KeepsSound.traffic (f := fun s => (portOfflineTaken t p s).1) (by simp)
            fun _ h => h.portOfflineTaken t p).at s
        split
        · rename_i heq
          rw [heq] at k
          exact k.complete _ _ _ _ _
        · rename_i heq
          rw [heq] at k
          exact k.trans (.quiet (by simp) (by simp))
      · split
        · refine Sound3.complete ?_ _ _ _ _ _
          exact (KeepsSound.traffic (by simp) fun _ h => h.portOnlineTaken p).at s
        · exact (Sound3.refl s).complete _ _ _ _ _
  · unfold mguRestart
    split
    · exact (Sound3.refl s).complete _ _ _ _ _
    · dsimp only
      refine .quiet ?_ ?_
      · rw [freeEntry_control]; rfl
      · rw [freeEntry_ports]; rfl
  all_goals exact Sound3.refl s

theorem mguStep_sound3 {s t : State} (h : mguStep s = some t) : Sound3 s t := by
  unfold mguStep at h
  split at h
  · rename_i hl
    repeat' split at h
    · contradiction
    · contradiction
    · cases h
      refine Sound3.trans ?_ (mguActs_sound3 _ _ _ ?_)
      · exact .quiet (by simp) (by simp)
      · exact hl.2
  · contradiction

/-! ### Arrivals and departures -/

theorem getD_sound3 (s : State) : Sound3 s ((mguStep s).getD s) := by
  cases hm : mguStep s
  · exact Sound3.refl s
  · exact mguStep_sound3 hm

theorem requestArrives_sound3 (r : Request) (s : State) : Sound3 s (requestArrives r s) := by
  unfold requestArrives
  split
  · exact .quiet (by simp) (by simp)
  · dsimp only
    refine Sound3.trans (t := clearWithdrawn r.tag s) (.quiet rfl rfl) ?_
    split
    · exact .quiet (by simp) (by simp)
    · unfold placeRequest
      split
      all_goals first
        | exact .quiet rfl rfl
        | skip
      · unfold answerKeepalive
        exact (judgeKeepalive_sound.at _).trans (.quiet (by simp) (by simp))
      all_goals
        unfold joinManagement
        dsimp only
        exact Sound3.trans (.quiet (by simp) (by simp)) (getD_sound3 _)
    · exact Sound3.refl _

theorem cancelArrives_sound3 (t : Tag) (s : State) : Sound3 s (cancelArrives t s) := by
  unfold cancelArrives
  split
  · exact Sound3.refl s
  · split
    · exact (Sound3.refl s).complete _ _ _ _ _
    · exact (Sound3.refl s).complete _ _ _ _ _
    · exact Sound3.refl s
    · split
      · exact .quiet (by simp [cancelData]) (by simp [cancelData])
      · split
        · exact .quiet (by simp [cancelFlush]) (by simp [cancelFlush])
        · unfold cancelManagement
          split
          · split
            · exact .quiet (by simp) (by simp)
            · exact Sound3.refl s
          · split
            · unfold cancelStage
              refine Sound3.complete ?_ _ _ _ _ _
              refine .quiet (Eq.trans rfl (withdrawGrants_control _ s)) ?_
              exact Eq.trans rfl (withdrawGrants_ports (fun g => g.tag = t) s)
            · exact Sound3.refl s
          · exact Sound3.refl s

theorem applyStage_sound3 (t : Tag) (s : State) : Sound3 s (applyStage t s) := by
  unfold applyStage
  split
  · exact Sound3.refl s
  · dsimp only
    refine Sound3.complete ?_ _ _ _ _ _
    refine ⟨fun h => h.of_ports rfl, fun h => h.of_eq rfl rfl (fun x => x) (fun x => (h.2.2.2.2.2 x).2), fun h => ?_⟩
    intro hx
    have hx' : s.xmp.stagingOpen = false := hx
    have := h hx'
    show (if s.xmp.stagingOpen = true then _ else s.xmp.staging) = _
    simp [hx', this]

theorem storeBlock_control (g : Grant) (i : Nat) (b : Block) (s : State) :
    (storeBlock g i b s).control = s.control := by
  unfold storeBlock
  split
  · split <;> simp
  · rfl
theorem storeBlock_ports (g : Grant) (i : Nat) (b : Block) (s : State) : (storeBlock g i b s).ports = s.ports := by
  unfold storeBlock
  split
  · split <;> simp
  · rfl

theorem grantFilled_sound3 (g : Grant) (s : State) : Sound3 s (grantFilled g s) := by
  unfold grantFilled
  split
  · exact .quiet (by simp) (by simp)
  · refine Sound3.trans ?_ (applyStage_sound3 _ _)
    exact .quiet (by simp) (by simp)

theorem blockArrives_sound3 (g : Grant) (i : Nat) (b : Block) (s : State) : Sound3 s (blockArrives g i b s) := by
  have k : Sound3 s (storeBlock g i b s) := .quiet (storeBlock_control g i b s) (storeBlock_ports g i b s)
  unfold blockArrives
  split
  · exact .quiet (by simp) (by simp)
  · dsimp only
    split
    · exact k.trans (grantFilled_sound3 _ _)
    · exact k

theorem dataArrives_sound3 (t : Tag) (off : Nat) (b : Block) (s : State) : Sound3 s (dataArrives t off b s) := by
  unfold dataArrives
  split
  · exact blockArrives_sound3 _ _ _ _
  · split
    · exact Sound3.refl s
    · exact .quiet (by simp) (by simp)

theorem grantTimeUp_sound3 (t : Tag) (first : Nat) (s : State) : Sound3 s (grantTimeUp t first s) := by
  unfold grantTimeUp
  split
  · exact Sound3.refl s
  · unfold grantExpires
    split
    · exact Sound3.refl s
    · split
      · exact .quiet (by simp) (by simp)
      · unfold stageLate
        exact .quiet (by simp) (by simp)

theorem resetPiece_control (i : PieceId) (s : State) : (resetPiece i s).control = s.control := by
  unfold resetPiece; (repeat' split) <;> simp
theorem resetPiece_ports (i : PieceId) (s : State) : (resetPiece i s).ports = s.ports := by
  unfold resetPiece; (repeat' split) <;> simp

theorem resetTraffic_control (s : State) : (resetTraffic s).control = s.control := by
  unfold resetTraffic
  dsimp only
  rw [setSpa_control, abortMove_control, foldl_control _ fun s i => resetPiece_control i s]
theorem resetTraffic_ports (s : State) : (resetTraffic s).ports = s.ports := by
  unfold resetTraffic
  dsimp only
  rw [State.setSpa_ports, abortMove_ports, foldl_ports _ fun s i => resetPiece_ports i s]

theorem detachPending_sound {x : Port} (h : x.Sound) : (detachPending x).Sound := by
  unfold detachPending
  split
  · exact h
  · exact h

theorem linkResetTaken_sound3 (s : State) : Sound3 s (linkResetTaken s) := by
  have k : Sound3 s (resetTraffic s) := .quiet (resetTraffic_control s) (resetTraffic_ports s)
  refine k.trans ?_
  unfold linkResetTaken
  generalize resetTraffic s = u
  dsimp only
  refine ⟨fun h => ?_, fun h => ?_, fun _ => ?_⟩
  · intro p
    have := detachPending_sound (h p)
    unfold portOf at *
    simpa [mapVec, closeStaging] using this
  · refine h.of_eq rfl rfl (fun x => x) (fun x => ?_)
    have ho := (h.2.2.2.2.2 x).2
    show detachOp u.mst.op = .idle
    rw [ho]
    rfl
  · exact fun _ => rfl

theorem frameArrives_sound3 (frame : List Byte) (s : State) : Sound3 s (frameArrives frame s) := by
  unfold frameArrives
  split
  · exact .quiet (by simp) (by simp)
  · unfold dispatchMessage
    split
    · exact requestArrives_sound3 _ s
    · exact dataArrives_sound3 _ _ _ s
    · exact cancelArrives_sound3 _ s
    · exact linkResetTaken_sound3 s

theorem blockDelivered_sound3 (i : PieceId) (s : State) : Sound3 s (blockDelivered i s) := by
  unfold blockDelivered
  split
  · exact Sound3.refl _
  · dsimp only
    split
    · refine Sound3.trans ?_ ((KeepsSound.traffic (by simp) fun _ h => h.pieceEnds _ _ _).at _)
      exact .quiet (by simp) (by simp)
    · exact .quiet (by simp) (by simp)

theorem readDataLeaves_sound3 (s : State) : Sound3 s (readDataLeaves s) := by
  unfold readDataLeaves
  split
  · refine Sound3.trans ?_ (blockDelivered_sound3 _ _)
    exact .quiet (by simp) (by simp)
  · exact Sound3.refl s

theorem managementDataEnds_sound3 (t : Tag) (s : State) : Sound3 s (managementDataEnds t s) := by
  unfold managementDataEnds
  exact .quiet (by simp) (by simp)

theorem managementDataLeaves_sound3 (s : State) : Sound3 s (managementDataLeaves s) := by
  unfold managementDataLeaves
  split
  · dsimp only
    split
    · exact .quiet (by simp) (by simp)
    · refine Sound3.trans ?_ (managementDataEnds_sound3 _ _)
      exact .quiet (by simp) (by simp)
  · unfold statusLeaves
    refine Sound3.trans ?_ (((setLapse_sound false).at _).trans (managementDataEnds_sound3 _ _))
    exact .quiet (by simp) (by simp)
  · exact Sound3.refl s

theorem restartLeaves_sound3 (s : State) : Sound3 s (restartLeaves s) := by
  unfold restartLeaves
  split
  · refine Sound3.trans ?_ ((startUp_sound _).at _)
    exact .quiet (by simp) (by simp)
  · exact Sound3.refl s

theorem otherFrameLeaves_sound3 (s : State) : Sound3 s (otherFrameLeaves s) := by
  unfold otherFrameLeaves
  split <;> first | exact .quiet (by simp) (by simp) | exact Sound3.refl s

/-! ### The steps of the part -/

theorem switchStep_sound3 {s t : State} (h : switchStep s = some t) : Sound3 s t := by
  unfold switchStep at h
  repeat' split at h
  · contradiction
  · cases h
    unfold switchMove
    dsimp only
    refine Sound3.complete ?_ _ _ _ _ _
    exact ⟨fun h => h.of_ports rfl, fun h => h.of_eq rfl rfl (fun x => x) (fun x => (h.2.2.2.2.2 x).2),
      fun h => h.of_xmp rfl rfl⟩
  · contradiction

theorem promptStep_sound3 {s t : State} (h : promptStep s = some t) : Sound3 s t := by
  unfold promptStep at h
  simp only [firstStep] at h
  repeat' split at h
  all_goals first
    | contradiction
    | (cases h; first
        | exact .quiet (flushStep_control ‹_›) (flushStep_ports ‹_›)
        | exact switchStep_sound3 ‹_›
        | exact .quiet (blockingStep_control ‹_›) (blockingStep_ports ‹_›)
        | exact .quiet (flCutStep_control ‹_›) (flCutStep_ports ‹_›)
        | exact .quiet (cpCutStep_control ‹_›) (cpCutStep_ports ‹_›)
        | exact .quiet (slotGrantStep_control ‹_›) (slotGrantStep_ports ‹_›))

theorem dueStep_sound3 {s t : State} (h : dueStep s = some t) : Sound3 s t := by
  unfold dueStep at h
  simp only [firstStep] at h
  repeat' split at h
  all_goals first
    | contradiction
    | (cases h; first
        | exact promptStep_sound3 ‹_›
        | exact .quiet (intakeStep_control ‹_›) (intakeStep_ports ‹_›)
        | exact .quiet (cutStep_control ‹_›) (cutStep_ports ‹_›)
        | exact mguStep_sound3 ‹_›)

theorem drain_sound3 (f : State → Option State) (hf : ∀ s t, f s = some t → Sound3 s t) (n : Nat) (s : State) :
    Sound3 s (drain f n s) := by
  induction n generalizing s with
  | zero => exact Sound3.refl s
  | succ n ih =>
    unfold drain
    split
    · exact Sound3.refl s
    · exact ((hf _ _ ‹_›).trans (finish_sound.at _)).trans (ih _)

/-- The due steps keep the three sound. -/
theorem settle_sound3 (s : State) : Sound3 s (settle s) := drain_sound3 _ (fun _ _ => dueStep_sound3) _ s

/-- The prompt steps keep the three sound. -/
theorem settlePrompt_sound3 (s : State) : Sound3 s (settlePrompt s) :=
  drain_sound3 _ (fun _ _ => promptStep_sound3) _ s

/-- An event keeps the three sound when its own effect does. -/
theorem event_sound3 {f : State → State} (hf : ∀ s, Sound3 s (f s)) (s : State) : Sound3 s (event f s) := by
  unfold event
  split
  · exact ((settle_sound3 s).trans (hf _)).trans (finish_sound.at _)
  · exact Sound3.refl s

theorem ownStep_sound3 {f : State → Option State} (hf : ∀ s t, f s = some t → Sound3 s t) (s : State) :
    Sound3 s (ownStep f s) := by
  unfold ownStep
  repeat' split
  · exact (hf _ _ ‹_›).trans (finish_sound.at _)
  · exact Sound3.refl s
  · exact Sound3.refl s

theorem ownEvent_sound3 {f : State → Option State} (hf : ∀ s t, f s = some t → Sound3 s t) (s : State) :
    Sound3 s (ownEvent f s) := by
  unfold ownEvent
  dsimp only
  repeat' split
  · exact ((settlePrompt_sound3 s).trans (hf _ _ ‹_›)).trans (finish_sound.at _)
  · exact settlePrompt_sound3 s
  · exact Sound3.refl s

end Sys2Proof.Machine
end

