-- ==== Sys2Proof/Laws/Traffic.lean ====
section
/-! SUPPORT. The end of a piece, of a request or of a move does not touch the management unit or the record of what has
left the part. One lemma for each operation of Ops, Pieces and Move. -/

namespace Sys2Proof.Machine

/-- MGU and the record of the outgoing lines. -/
def State.outer (s : State) := (s.mgu, s.out)

theorem foldl_outer {α : Type} (f : State → α → State) (h : ∀ s a, (f s a).outer = s.outer) (l : List α)
    (s : State) : (l.foldl f s).outer = s.outer := by
  induction l generalizing s with
  | nil => rfl
  | cons a l ih => simp [List.foldl_cons, ih, h]

/-! ### Setters -/

@[simp] theorem setUlc_outer (x : Ulc) (s : State) : (s.setUlc x).outer = s.outer := rfl
@[simp] theorem setRqt_outer (x : Rqt) (s : State) : (s.setRqt x).outer = s.outer := rfl
@[simp] theorem setPsc_outer (x : Psc) (s : State) : (s.setPsc x).outer = s.outer := rfl
@[simp] theorem setSpa_outer (x : Spa) (s : State) : (s.setSpa x).outer = s.outer := rfl
@[simp] theorem setPorts_outer (x : Vector Port 4) (s : State) : (s.setPorts x).outer = s.outer := rfl
@[simp] theorem setMve_outer (x : Option Move) (s : State) : (s.setMve x).outer = s.outer := rfl
/-! ### Ops -/

@[simp] theorem setEntry_outer (t : Tag) (e : Option Entry) (s : State) : (setEntry t e s).outer = s.outer := rfl
@[simp] theorem modEntry_outer (t : Tag) (f : Entry → Entry) (s : State) : (modEntry t f s).outer = s.outer := rfl
@[simp] theorem setPiece_outer (i : PieceId) (p : Option Piece) (s : State) : (setPiece i p s).outer = s.outer :=
  rfl
@[simp] theorem modPiece_outer (i : PieceId) (f : Piece → Piece) (s : State) : (modPiece i f s).outer = s.outer :=
  rfl
@[simp] theorem joinQueue_outer (p : PortId) (i : PieceId) (s : State) : (joinQueue p i s).outer = s.outer := rfl
@[simp] theorem setPort_outer (p : PortId) (x : Port) (s : State) : (setPort p x s).outer = s.outer := rfl
@[simp] theorem modPort_outer (p : PortId) (f : Port → Port) (s : State) : (modPort p f s).outer = s.outer := rfl
@[simp] theorem releaseSlots_outer (l : List SlotId) (s : State) : (releaseSlots l s).outer = s.outer := rfl
@[simp] theorem writeSlot_outer (k : SlotId) (b : Block) (s : State) : (writeSlot k b s).outer = s.outer := rfl
@[simp] theorem withdrawClaim_outer (p : PortId) (s : State) : (withdrawClaim p s).outer = s.outer := rfl
@[simp] theorem leaveQueues_outer (i : PieceId) (s : State) : (leaveQueues i s).outer = s.outer := by
  unfold leaveQueues; dsimp only; rw [setPsc_outer]; exact foldl_outer _ (by intros; simp) _ _
@[simp] theorem handFrame_outer (f : TxFrame) (s : State) : (handFrame f s).outer = s.outer := rfl
@[simp] theorem withdrawFrames_outer (q : TxFrame → Bool) (s : State) : (withdrawFrames q s).outer = s.outer := rfl
@[simp] theorem removeGrant_outer (g : Grant) (s : State) : (removeGrant g s).outer = s.outer := rfl
@[simp] theorem withdrawGrant_outer (g : Grant) (s : State) : (withdrawGrant g s).outer = s.outer := rfl
@[simp] theorem withdrawGrants_outer (q : Grant → Bool) (s : State) : (withdrawGrants q s).outer = s.outer := by
  exact foldl_outer _ (by intros; simp) _ _
@[simp] theorem openGrant_outer (g : Grant) (s : State) : (openGrant g s).outer = s.outer := rfl
@[simp] theorem sendCmpl_outer (t : Tag) (o : ReqOutcome) (c : Cause) (r d : Nat) (s : State) :
    (sendCmpl t o c r d s).outer = s.outer := rfl
@[simp] theorem freeEntry_outer (t : Tag) (s : State) : (freeEntry t s).outer = s.outer := by
  simp [freeEntry]
@[simp] theorem complete_outer (t : Tag) (o : ReqOutcome) (c : Cause) (r d : Nat) (s : State) :
    (complete t o c r d s).outer = s.outer := by simp [complete]

/-! ### Pieces -/

@[simp] theorem completeData_outer (t : Tag) (e : Entry) (s : State) : (completeData t e s).outer = s.outer := by
  unfold completeData; (repeat' split) <;> simp
@[simp] theorem completeFlush_outer (t : Tag) (e : Entry) (s : State) :
    (completeFlush t e s).outer = s.outer := by
  unfold completeFlush; (repeat' split) <;> simp
@[simp] theorem tryComplete_outer (t : Tag) (s : State) : (tryComplete t s).outer = s.outer := by
  unfold tryComplete; (repeat' split) <;> simp
@[simp] theorem trimActive_outer (t : Tag) (s : State) : (trimActive t s).outer = s.outer := by
  unfold trimActive; (repeat' split) <;> simp
@[simp] theorem detachPiece_outer (i : PieceId) (s : State) : (detachPiece i s).outer = s.outer := by
  unfold detachPiece; split <;> simp
@[simp] theorem dropPiece_outer (t : Tag) (i : PieceId) (s : State) : (dropPiece t i s).outer = s.outer := by
  unfold dropPiece; split <;> simp
@[simp] theorem dropPieces_outer (t : Tag) (q : Piece → Bool) (s : State) :
    (dropPieces t q s).outer = s.outer := by
  exact foldl_outer _ (by intros; simp) _ _
@[simp] theorem stopFlush_outer (t : Tag) (s : State) : (stopFlush t s).outer = s.outer := by
  simp [stopFlush]
@[simp] theorem dataOutcome_outer (t : Tag) (e : Entry) (p : Piece) (o : PieceOutcome) (s : State) :
    (dataOutcome t e p o s).outer = s.outer := by
  unfold dataOutcome; dsimp only; (repeat' split) <;> simp
@[simp] theorem flushOutcome_outer (t : Tag) (e : Entry) (p : Piece) (o : PieceOutcome) (s : State) :
    (flushOutcome t e p o s).outer = s.outer := by
  unfold flushOutcome; dsimp only; (repeat' split) <;> simp
@[simp] theorem requestOutcome_outer (t : Tag) (p : Piece) (o : PieceOutcome) (s : State) :
    (requestOutcome t p o s).outer = s.outer := by
  unfold requestOutcome; (repeat' split) <;> simp
@[simp] theorem clearFaults_outer (p : PortId) (s : State) : (clearFaults p s).outer = s.outer := rfl
@[simp] theorem pieceEnds_outer (i : PieceId) (o : PieceOutcome) (a : Option PortId) (s : State) :
    (pieceEnds i o a s).outer = s.outer := by
  unfold pieceEnds; dsimp only; (repeat' split) <;> simp

/-! ### Move -/

@[simp] theorem refreshBlocking_outer (s : State) : (refreshBlocking s).outer = s.outer := by
  unfold refreshBlocking; split <;> simp
@[simp] theorem fixChunk_outer (m : Move) (s : State) : (fixChunk m s).outer = s.outer := by
  simp [fixChunk]
@[simp] theorem abortPiece_outer (i : PieceId) (s : State) : (abortPiece i s).outer = s.outer := by
  unfold abortPiece; (repeat' split) <;> simp
@[simp] theorem setActive_outer (m : ExtMap) (s : State) :
    (s.setXmp { s.xmp with active := m }).outer = s.outer := rfl
@[simp] theorem abortMove_outer (o : ReqOutcome) (c : Cause) (d : Nat) (b : Bool) (s : State) :
    (abortMove o c d b s).outer = s.outer := by
  unfold abortMove; dsimp only
  (repeat' split) <;> (try simp only [complete_outer]) <;>
    (try rw [foldl_outer _ fun s i => abortPiece_outer i s]) <;> simp
@[simp] theorem portExitAborts_outer (p : PortId) (c : Cause) (s : State) :
    (portExitAborts p c s).outer = s.outer := by
  unfold portExitAborts; (repeat' split) <;> simp
@[simp] theorem abortAt_outer (l : Option Nat) (c : Cause) (s : State) : (abortAt l c s).outer = s.outer := by
  unfold abortAt; split <;> simp
@[simp] theorem sourceFails_outer (i : PieceId) (k : Nat) (c : Cause) (s : State) :
    (sourceFails i k c s).outer = s.outer := by
  unfold sourceFails; split <;> simp
@[simp] theorem destFails_outer (i : PieceId) (k : Nat) (c : Cause) (s : State) :
    (destFails i k c s).outer = s.outer := by
  unfold destFails; dsimp only; (repeat' split) <;> simp
@[simp] theorem pieceFails_outer (i : PieceId) (k : Nat) (c : Cause) (s : State) :
    (pieceFails i k c s).outer = s.outer := by
  unfold pieceFails; (repeat' split) <;> simp
@[simp] theorem joinDestination_outer (i : PieceId) (s : State) : (joinDestination i s).outer = s.outer := by
  unfold joinDestination; dsimp only; (repeat' split) <;> simp
@[simp] theorem sourceEnds_outer (i : PieceId) (s : State) : (sourceEnds i s).outer = s.outer := by
  unfold sourceEnds; dsimp only; (repeat' split) <;> simp
@[simp] theorem advanceCursor_outer (s : State) : (advanceCursor s).outer = s.outer := by
  unfold advanceCursor; dsimp only
  (repeat' split) <;> (try simp only [fixChunk_outer, setMve_outer]) <;>
    (try rw [foldl_outer _ fun s i => joinDestination_outer i s]) <;> simp
@[simp] theorem destEnds_outer (i : PieceId) (s : State) : (destEnds i s).outer = s.outer := by
  unfold destEnds; dsimp only; (repeat' split) <;> simp


/-! ### Requests and pieces alone -/

/-- MGU, the record of the outgoing lines, the maps, and whether a move is active. -/
def State.inner (s : State) := (s.mgu, s.out, s.xmp, s.mve.isSome)

theorem foldl_inner {α : Type} (f : State → α → State) (h : ∀ s a, (f s a).inner = s.inner) (l : List α)
    (s : State) : (l.foldl f s).inner = s.inner := by
  induction l generalizing s with
  | nil => rfl
  | cons a l ih => simp [List.foldl_cons, ih, h]

/-! ### Setters -/

@[simp] theorem setUlc_inner (x : Ulc) (s : State) : (s.setUlc x).inner = s.inner := rfl
@[simp] theorem setRqt_inner (x : Rqt) (s : State) : (s.setRqt x).inner = s.inner := rfl
@[simp] theorem setPsc_inner (x : Psc) (s : State) : (s.setPsc x).inner = s.inner := rfl
@[simp] theorem setSpa_inner (x : Spa) (s : State) : (s.setSpa x).inner = s.inner := rfl
@[simp] theorem setPorts_inner (x : Vector Port 4) (s : State) : (s.setPorts x).inner = s.inner := rfl
@[simp] theorem mapMove_inner (f : Move → Move) (s : State) : (s.setMve (s.mve.map f)).inner = s.inner := by
  simp [State.inner]

/-! ### Ops -/

@[simp] theorem setEntry_inner (t : Tag) (e : Option Entry) (s : State) : (setEntry t e s).inner = s.inner := rfl
@[simp] theorem modEntry_inner (t : Tag) (f : Entry → Entry) (s : State) : (modEntry t f s).inner = s.inner := rfl
@[simp] theorem setPiece_inner (i : PieceId) (p : Option Piece) (s : State) : (setPiece i p s).inner = s.inner :=
  rfl
@[simp] theorem modPiece_inner (i : PieceId) (f : Piece → Piece) (s : State) : (modPiece i f s).inner = s.inner :=
  rfl
@[simp] theorem joinQueue_inner (p : PortId) (i : PieceId) (s : State) : (joinQueue p i s).inner = s.inner := rfl
@[simp] theorem setPort_inner (p : PortId) (x : Port) (s : State) : (setPort p x s).inner = s.inner := rfl
@[simp] theorem modPort_inner (p : PortId) (f : Port → Port) (s : State) : (modPort p f s).inner = s.inner := rfl
@[simp] theorem releaseSlots_inner (l : List SlotId) (s : State) : (releaseSlots l s).inner = s.inner := rfl
@[simp] theorem writeSlot_inner (k : SlotId) (b : Block) (s : State) : (writeSlot k b s).inner = s.inner := rfl
@[simp] theorem withdrawClaim_inner (p : PortId) (s : State) : (withdrawClaim p s).inner = s.inner := rfl
@[simp] theorem leaveQueues_inner (i : PieceId) (s : State) : (leaveQueues i s).inner = s.inner := by
  unfold leaveQueues; dsimp only; rw [setPsc_inner]; exact foldl_inner _ (by intros; simp) _ _
@[simp] theorem handFrame_inner (f : TxFrame) (s : State) : (handFrame f s).inner = s.inner := rfl
@[simp] theorem withdrawFrames_inner (q : TxFrame → Bool) (s : State) : (withdrawFrames q s).inner = s.inner := rfl
@[simp] theorem removeGrant_inner (g : Grant) (s : State) : (removeGrant g s).inner = s.inner := rfl
@[simp] theorem withdrawGrant_inner (g : Grant) (s : State) : (withdrawGrant g s).inner = s.inner := rfl
@[simp] theorem withdrawGrants_inner (q : Grant → Bool) (s : State) : (withdrawGrants q s).inner = s.inner := by
  exact foldl_inner _ (by intros; simp) _ _
@[simp] theorem openGrant_inner (g : Grant) (s : State) : (openGrant g s).inner = s.inner := rfl
@[simp] theorem sendCmpl_inner (t : Tag) (o : ReqOutcome) (c : Cause) (r d : Nat) (s : State) :
    (sendCmpl t o c r d s).inner = s.inner := rfl
@[simp] theorem freeEntry_inner (t : Tag) (s : State) : (freeEntry t s).inner = s.inner := by
  simp [freeEntry]
@[simp] theorem complete_inner (t : Tag) (o : ReqOutcome) (c : Cause) (r d : Nat) (s : State) :
    (complete t o c r d s).inner = s.inner := by simp [complete]

/-! ### Pieces -/

@[simp] theorem completeData_inner (t : Tag) (e : Entry) (s : State) : (completeData t e s).inner = s.inner := by
  unfold completeData; (repeat' split) <;> simp
@[simp] theorem completeFlush_inner (t : Tag) (e : Entry) (s : State) :
    (completeFlush t e s).inner = s.inner := by
  unfold completeFlush; (repeat' split) <;> simp
@[simp] theorem tryComplete_inner (t : Tag) (s : State) : (tryComplete t s).inner = s.inner := by
  unfold tryComplete; (repeat' split) <;> simp
@[simp] theorem trimActive_inner (t : Tag) (s : State) : (trimActive t s).inner = s.inner := by
  unfold trimActive; (repeat' split) <;> simp
@[simp] theorem detachPiece_inner (i : PieceId) (s : State) : (detachPiece i s).inner = s.inner := by
  unfold detachPiece; split <;> simp
@[simp] theorem dropPiece_inner (t : Tag) (i : PieceId) (s : State) : (dropPiece t i s).inner = s.inner := by
  unfold dropPiece; split <;> simp
@[simp] theorem dropPieces_inner (t : Tag) (q : Piece → Bool) (s : State) :
    (dropPieces t q s).inner = s.inner := by
  exact foldl_inner _ (by intros; simp) _ _
@[simp] theorem stopFlush_inner (t : Tag) (s : State) : (stopFlush t s).inner = s.inner := by
  simp [stopFlush]
@[simp] theorem dataOutcome_inner (t : Tag) (e : Entry) (p : Piece) (o : PieceOutcome) (s : State) :
    (dataOutcome t e p o s).inner = s.inner := by
  unfold dataOutcome; dsimp only; (repeat' split) <;> simp
@[simp] theorem flushOutcome_inner (t : Tag) (e : Entry) (p : Piece) (o : PieceOutcome) (s : State) :
    (flushOutcome t e p o s).inner = s.inner := by
  unfold flushOutcome; dsimp only; (repeat' split) <;> simp
@[simp] theorem requestOutcome_inner (t : Tag) (p : Piece) (o : PieceOutcome) (s : State) :
    (requestOutcome t p o s).inner = s.inner := by
  unfold requestOutcome; (repeat' split) <;> simp
@[simp] theorem clearFaults_inner (p : PortId) (s : State) : (clearFaults p s).inner = s.inner := rfl
@[simp] theorem pieceEnds_inner (i : PieceId) (o : PieceOutcome) (a : Option PortId) (s : State) :
    (pieceEnds i o a s).inner = s.inner := by
  unfold pieceEnds; dsimp only; (repeat' split) <;> simp

/-! ### Move -/

@[simp] theorem abortPiece_inner (i : PieceId) (s : State) : (abortPiece i s).inner = s.inner := by
  unfold abortPiece; (repeat' split) <;> simp

end Sys2Proof.Machine
end

