-- ==== Sys2Proof/Laws/Answers.lean ====
section
/-! SUPPORT. What the completion of a request does (R41), and the entry of a new one (R25). -/

namespace Sys2Proof.Machine

/-! ### Grants -/

/-- Withdrawing grants touches ULC alone. -/
theorem withdrawGrant_ulc (g : Grant) (s : State) : withdrawGrant g s = s.setUlc (withdrawGrant g s).ulc := rfl

theorem foldl_withdraw_ulc (l : List Grant) (s : State) :
    l.foldl (fun s g => withdrawGrant g s) s = s.setUlc (l.foldl (fun s g => withdrawGrant g s) s).ulc := by
  induction l generalizing s with
  | nil => rfl
  | cons g l ih =>
    simp only [List.foldl_cons]
    rw [ih]
    rfl

theorem withdrawGrants_ulc (q : Grant → Bool) (s : State) :
    withdrawGrants q s = s.setUlc (withdrawGrants q s).ulc := foldl_withdraw_ulc _ _

theorem withdrawGrant_handed (g : Grant) (s : State) : handed (withdrawGrant g s) = handed s := by
  show List.filter notGrant (List.filter _ s.ulc.tx) = List.filter notGrant s.ulc.tx
  rw [List.filter_filter]
  apply List.filter_congr
  intro f _
  cases f <;> simp [notGrant]

theorem foldl_withdraw_handed (l : List Grant) (s : State) :
    handed (l.foldl (fun s g => withdrawGrant g s) s) = handed s := by
  induction l generalizing s with
  | nil => rfl
  | cons g l ih => simp only [List.foldl_cons]; rw [ih, withdrawGrant_handed]

theorem foldl_withdraw_grants (l : List Grant) (s : State) :
    (l.foldl (fun s g => withdrawGrant g s) s).ulc.grants = s.ulc.grants.filter (· ∉ l) := by
  induction l generalizing s with
  | nil => exact (List.filter_eq_self.mpr fun _ _ => by simp).symm
  | cons g l ih =>
    simp only [List.foldl_cons]
    rw [ih]
    show List.filter _ (List.filter _ s.ulc.grants) = _
    rw [List.filter_filter]
    apply List.filter_congr
    intro x _
    by_cases e : x = g <;> simp [e]

/-- R65: the withdrawn grants are gone and the others stay. -/
theorem withdrawGrants_grants (q : Grant → Bool) (s : State) :
    (withdrawGrants q s).ulc.grants = s.ulc.grants.filter (fun g => !q g) := by
  unfold withdrawGrants
  rw [foldl_withdraw_grants]
  apply List.filter_congr
  intro x hx
  simp [hx]

theorem withdrawGrants_handed (q : Grant → Bool) (s : State) : handed (withdrawGrants q s) = handed s :=
  foldl_withdraw_handed _ _

theorem foldl_withdraw_withdrawn (l : List Grant) (t : Tag) (h : ∀ g ∈ l, g.tag ≠ t) (s : State) :
    (l.foldl (fun s g => withdrawGrant g s) s).ulc.withdrawn[t] = s.ulc.withdrawn[t] := by
  induction l generalizing s with
  | nil => rfl
  | cons g l ih =>
    simp only [List.foldl_cons]
    rw [ih fun x hx => h x (List.mem_cons_of_mem _ hx)]
    have hg := h g (List.mem_cons_self ..)
    have e : g.tag.val ≠ t.val := fun e => hg (Fin.ext e)
    show (Vector.set _ _ _)[t] = _
    simp [Vector.getElem_set_ne, e]

/-- R65: the withdrawn sets of other tags stay. -/
theorem withdrawGrants_withdrawn (t t' : Tag) (h : t' ≠ t) (s : State) :
    (withdrawGrants (fun g => g.tag = t) s).ulc.withdrawn[t'] = s.ulc.withdrawn[t'] := by
  apply foldl_withdraw_withdrawn
  intro g hg e
  have := (List.mem_filter.mp hg).2
  simp only [decide_eq_true_eq] at this
  exact h (e.symm.trans this)

/-! ### Entries -/

@[simp] theorem entryOf_setEntry_self (t : Tag) (e : Option Entry) (s : State) :
    entryOf t (setEntry t e s) = e := by simp [entryOf, setEntry]

theorem entryOf_setEntry_ne {t t' : Tag} (h : t' ≠ t) (e : Option Entry) (s : State) :
    entryOf t' (setEntry t e s) = entryOf t' s := by
  have e' : t.val ≠ t'.val := fun x => h (Fin.ext x).symm
  simp [entryOf, setEntry, Vector.getElem_set_ne, e']

theorem mapVec_get {α β : Type} {n : Nat} (f : α → β) (v : Vector α n) (i : Fin n) : (mapVec f v)[i] = f v[i] := by
  simp [mapVec]

/-! ### A completion (R41) -/

/-- R41: what a completion changes beyond RQT, ULC and MVE is nothing. -/
theorem freeEntry_blocks (t : Tag) (s : State) :
    freeEntry t s = ((s.setUlc (withdrawGrants (fun g => g.tag = t) s).ulc).setMve
      (s.mve.map fun m => { m with dual := leaveSet t m.dual, blocking := leaveSet t m.blocking })).setRqt
        (freeEntry t s).rqt := by
  have e := withdrawGrants_ulc (fun g => g.tag = t) s
  unfold freeEntry
  dsimp only
  rw [e]
  rfl

theorem freeEntry_rqt (t : Tag) (s : State) : (freeEntry t s).rqt = {
    entries := (mapVec (Option.map (forget t)) s.rqt.entries).set t none
    intake := leaveSet t s.rqt.intake
    mgmt := leaveSet t s.rqt.mgmt
    active := leaveSet t s.rqt.active
    barrier := leaveSet t s.rqt.barrier
    flushing := leaveSet t s.rqt.flushing } := by
  have e := withdrawGrants_ulc (fun g => g.tag = t) s
  unfold freeEntry
  dsimp only
  rw [e]
  rfl

/-- R41: a completion, once for all. -/
theorem complete_blocks (t : Tag) (o : ReqOutcome) (c : Cause) (r d : Nat) (s : State) :
    complete t o c r d s = ((s.setUlc (complete t o c r d s).ulc).setMve (complete t o c r d s).mve).setRqt
      (complete t o c r d s).rqt := by
  unfold complete
  rw [freeEntry_blocks]
  rfl

theorem complete_mve (t : Tag) (o : ReqOutcome) (c : Cause) (r d : Nat) (s : State) :
    (complete t o c r d s).mve =
      s.mve.map fun m => { m with dual := leaveSet t m.dual, blocking := leaveSet t m.blocking } := by
  unfold complete
  rw [freeEntry_blocks]
  rfl

theorem complete_ulc (t : Tag) (o : ReqOutcome) (c : Cause) (r d : Nat) (s : State) :
    (complete t o c r d s).ulc = (withdrawGrants (fun g => g.tag = t) (sendCmpl t o c r d s)).ulc := by
  unfold complete
  rw [freeEntry_blocks]
  rfl

@[simp] theorem complete_xmp (t : Tag) (o : ReqOutcome) (c : Cause) (r d : Nat) (s : State) :
    (complete t o c r d s).xmp = s.xmp := by rw [complete_blocks]; rfl
@[simp] theorem complete_mgu (t : Tag) (o : ReqOutcome) (c : Cause) (r d : Nat) (s : State) :
    (complete t o c r d s).mgu = s.mgu := by rw [complete_blocks]; rfl
@[simp] theorem complete_psc (t : Tag) (o : ReqOutcome) (c : Cause) (r d : Nat) (s : State) :
    (complete t o c r d s).psc = s.psc := by rw [complete_blocks]; rfl
@[simp] theorem complete_spa (t : Tag) (o : ReqOutcome) (c : Cause) (r d : Nat) (s : State) :
    (complete t o c r d s).spa = s.spa := by rw [complete_blocks]; rfl
@[simp] theorem complete_out (t : Tag) (o : ReqOutcome) (c : Cause) (r d : Nat) (s : State) :
    (complete t o c r d s).out = s.out := by rw [complete_blocks]; rfl
@[simp] theorem complete_pins (t : Tag) (o : ReqOutcome) (c : Cause) (r d : Nat) (s : State) :
    (complete t o c r d s).pins = s.pins := by rw [complete_blocks]; rfl
@[simp] theorem complete_draws (t : Tag) (o : ReqOutcome) (c : Cause) (r d : Nat) (s : State) :
    (complete t o c r d s).draws = s.draws := by rw [complete_blocks]; rfl
@[simp] theorem complete_pending (t : Tag) (o : ReqOutcome) (c : Cause) (r d : Nat) (s : State) :
    (complete t o c r d s).pending = s.pending := by rw [complete_blocks]; rfl

/-- R41: a completion answers its request. -/
theorem complete_answers (t : Tag) (o : ReqOutcome) (c : Cause) (r d : Nat) (s : State) :
    Answers t o c r d s (complete t o c r d s) := by
  have hr : (complete t o c r d s).rqt = (freeEntry t (sendCmpl t o c r d s)).rqt := rfl
  rw [freeEntry_rqt] at hr
  refine ⟨?_, ?_, ?_, ?_, ?_, ?_, ?_, ?_, ?_, ?_, complete_mve _ _ _ _ _ _⟩
  · unfold handed
    rw [complete_ulc]
    have := withdrawGrants_handed (fun g => g.tag = t) (sendCmpl t o c r d s)
    unfold handed at this
    rw [this]
    have e : completionOf t o c r d (complete t o c r d s) = completionOf t o c r d s := by
      unfold completionOf attention
      rw [complete_mgu, complete_svm, complete_xmp]
    rw [e]
    simp [sendCmpl, handFrame, notGrant]
  · unfold entryOf
    rw [hr]
    simp
  · intro t' h
    unfold entryOf
    rw [hr]
    have e' : t.val ≠ t'.val := fun x => h (Fin.ext x).symm
    simp [e', mapVec, sendCmpl, handFrame]
  · rw [hr]; rfl
  · rw [hr]; rfl
  · rw [hr]; rfl
  · rw [hr]; rfl
  · rw [hr]; rfl
  · rw [complete_ulc, withdrawGrants_grants]
    simp [sendCmpl, handFrame]
  · intro t' h
    rw [complete_ulc, withdrawGrants_withdrawn t t' h]
    rfl

/-- R41: a completion leaves the media side alone. -/
theorem SameMedia.complete {u v : State} (h : SameMedia u v) (t : Tag) (o : ReqOutcome) (c : Cause) (r d : Nat) :
    SameMedia u (complete t o c r d v) := by
  obtain ⟨h1, h2, h3, h4, h5, h6, h7⟩ := h
  exact ⟨by rw [complete_psc, h1], by rw [complete_spa, h2], by rw [complete_ports, h3], by rw [complete_out, h4],
    by rw [complete_pins, h5], by rw [complete_draws, h6], by rw [complete_pending, h7]⟩

/-- R41: a completion leaves the maps, MGU, the store and supervision alone. -/
theorem SameManagement.complete {u v : State} (h : SameManagement u v) (t : Tag) (o : ReqOutcome) (c : Cause)
    (r d : Nat) : SameManagement u (complete t o c r d v) := by
  obtain ⟨h1, h2, h3, h4⟩ := h
  exact ⟨by rw [complete_xmp, h1], by rw [complete_mgu, h2], by rw [complete_mst, h3], by rw [complete_svm, h4]⟩

/-- R41: the CMPL of an answer is in the transmit list. -/
theorem Answers.mem_tx {t : Tag} {o : ReqOutcome} {c : Cause} {r d : Nat} {u w : State} (h : Answers t o c r d u w) :
    .cmpl (completionOf t o c r d w) false ∈ w.ulc.tx := by
  have hm : .cmpl (completionOf t o c r d w) false ∈ handed w := by rw [h.1]; simp
  exact (List.mem_filter.mp hm).1

/-- R41: what an answer says goes through a state that agrees on what it speaks of. -/
theorem Answers.from {t : Tag} {o : ReqOutcome} {c : Cause} {r d : Nat} {u v w : State} (h : Answers t o c r d v w)
    (hh : handed v = handed u) (he : ∀ t', t' ≠ t → entryOf t' v = entryOf t' u)
    (hi : leaveSet t v.rqt.intake = leaveSet t u.rqt.intake) (hm : leaveSet t v.rqt.mgmt = leaveSet t u.rqt.mgmt)
    (ha : leaveSet t v.rqt.active = leaveSet t u.rqt.active)
    (hb : leaveSet t v.rqt.barrier = leaveSet t u.rqt.barrier)
    (hf : leaveSet t v.rqt.flushing = leaveSet t u.rqt.flushing)
    (hg : v.ulc.grants.filter (·.tag ≠ t) = u.ulc.grants.filter (·.tag ≠ t))
    (hw : ∀ t' : Tag, t' ≠ t → v.ulc.withdrawn[t'] = u.ulc.withdrawn[t']) (hv : v.mve = u.mve) :
    Answers t o c r d u w := by
  obtain ⟨h1, h2, h3, h4, h5, h6, h7, h8, h9, h10, h11⟩ := h
  exact ⟨by rw [h1, hh], h2, fun t' n => by rw [h3 t' n, he t' n], by rw [h4, hi], by rw [h5, hm], by rw [h6, ha],
    by rw [h7, hb], by rw [h8, hf], by rw [h9, hg], fun t' n => by rw [h10 t' n, hw t' n], by rw [h11, hv]⟩

/-! ### The abort of a move (R110) -/

theorem abortPieces_inner (l : List PieceId) (s : State) :
    (l.foldl (fun s id => abortPiece id s) s).inner = s.inner :=
  foldl_inner _ (fun s i => abortPiece_inner i s) l s

theorem abortPieces_ports (l : List PieceId) (s : State) :
    (l.foldl (fun s id => abortPiece id s) s).ports = s.ports := by
  induction l generalizing s with
  | nil => rfl
  | cons a l ih => simp only [List.foldl_cons]; rw [ih]; simp

/-- R110: an abort that reports: the context is IDLE, the map NORMAL, and the MOVE request answered. -/
theorem abortMove_aborts {s : State} {m : Move} (h : s.mve = some m) (o : ReqOutcome) (c : Cause) (d : Nat) :
    (abortMove o c d true s).mve = none ∧
    (abortMove o c d true s).xmp = { s.xmp with active := settleMap s.xmp.active } ∧
    entryOf m.tag (abortMove o c d true s) = none ∧
    .cmpl (completionOf m.tag o c 0 d (abortMove o c d true s)) false ∈ (abortMove o c d true s).ulc.tx := by
  have e : ∃ v : State, v.inner = ((s.setXmp { s.xmp with active := settleMap s.xmp.active }).setMve none).inner ∧
      abortMove o c d true s = complete m.tag o c 0 d v := by
    unfold abortMove
    rw [h]
    exact ⟨_, abortPieces_inner _ _, rfl⟩
  obtain ⟨v, hv, hw⟩ := e
  rw [hw]
  have hv1 := congrArg (·.2.2.1) hv
  have hv2 := congrArg (·.2.2.2) hv
  have hn : v.mve = none := by
    have : v.mve.isSome = false := hv2
    cases hx : v.mve <;> simp_all
  have a := complete_answers m.tag o c 0 d v
  refine ⟨?_, ?_, a.2.1, a.mem_tx⟩
  · rw [complete_mve, hn]; rfl
  · rw [complete_xmp]; exact hv1

/-- R110: with no move an abort changes nothing. -/
theorem abortMove_idle {s : State} (h : s.mve = none) (o : ReqOutcome) (c : Cause) (d : Nat) (b : Bool) :
    abortMove o c d b s = s := by
  unfold abortMove
  rw [h]

end Sys2Proof.Machine
end

