-- ==== Sys2Proof/Laws/Arrivals.lean ====
section
/-! SUPPORT. How an event finds the part, and how a request arrives: discarded, refused, placed, or taken by MGU at once. -/

namespace Sys2Proof.Machine

/-- An event from outside acts on the part as it stands. -/
theorem event_at {s u : State} (h : StandsAt s u) (f : State → State) : event f s = finish (f u) := by
  obtain ⟨h1, h2⟩ := h
  simp [event, h1, h2]

/-- A part that takes no event is left as it is. -/
theorem event_stopped {s : State} (h : running s = false) (f : State → State) : event f s = s := by simp [event, h]

/-- A request command brings its record. -/
theorem request_event {s u : State} {c : Instr} {r : Request} (hs : StandsAt s u) (h : requestIn c = some r) :
    exec c s = .next (finish (requestArrives r u)) := by
  rw [← event_at hs]
  cases c <;> simp [requestIn] at h <;> subst h <;> rfl

/-! ### The arrival checks (R26) -/

/-- R26: the first check. -/
theorem arrivalCheck_badUnit {r : Request} (h : ¬(r.unit.toNat ≤ 3 ∨ r.unit = 7)) : arrivalCheck r = some .badUnit := by
  have : 3 < r.unit.toNat ∧ r.unit ≠ 7 := ⟨by omega, fun e => h (Or.inr e)⟩
  simp only [arrivalCheck, this, and_self, if_true, ne_eq, not_false_eq_true]

theorem goodUnit_iff {r : Request} (h : r.unit.toNat ≤ 3 ∨ r.unit = 7) : ¬(3 < r.unit.toNat ∧ r.unit ≠ 7) := by
  rintro ⟨a, b⟩
  rcases h with h | h
  · omega
  · exact b h

/-- R26: the second check. -/
theorem arrivalCheck_badKind {r : Request} {k : Kind} (h : r.unit.toNat ≤ 3 ∨ r.unit = 7) (hk : kindOf r.code = some k)
    (hd : isDataKind k = decide (r.unit = 7)) : arrivalCheck r = some .badKind := by
  unfold arrivalCheck
  rw [if_neg (goodUnit_iff h), hk]
  by_cases h7 : r.unit = 7 <;> simp_all

/-- R26: the third check. -/
theorem arrivalCheck_badParam {r : Request} {k : Kind} (h : r.unit.toNat ≤ 3) (hk : kindOf r.code = some k)
    (hn : namesBlocks k = true) (hb : 4294967295 < r.lba.toNat + blockCount r.count - 1) :
    arrivalCheck r = some .badParam := by
  have h7 : r.unit ≠ 7 := by
    intro e
    rw [e] at h
    simp at h
  unfold arrivalCheck
  rw [if_neg (goodUnit_iff (Or.inl h)), hk]
  cases k <;> simp_all [isDataKind, namesBlocks]

/-- R26: a request that matches no check. -/
theorem arrivalCheck_none {r : Request} {k : Kind} (hk : kindOf r.code = some k)
    (hu : if isDataKind k then r.unit.toNat ≤ 3 else r.unit = 7)
    (hb : namesBlocks k = true → r.lba.toNat + blockCount r.count - 1 ≤ 4294967295) : arrivalCheck r = none := by
  have hg : r.unit.toNat ≤ 3 ∨ r.unit = 7 := by
    by_cases hd : isDataKind k = true
    · exact Or.inl (by simpa [hd] using hu)
    · exact Or.inr (by simpa [hd] using hu)
  unfold arrivalCheck
  rw [if_neg (goodUnit_iff hg), hk]
  have h1 : ¬(isDataKind k ≠ decide (r.unit ≠ 7)) := by
    by_cases hd : isDataKind k = true
    · have h3 : r.unit.toNat ≤ 3 := by simpa [hd] using hu
      have h7 : r.unit ≠ 7 := by
        intro e
        rw [e] at h3
        simp at h3
      simpa [hd] using h7
    · have h7 : r.unit = 7 := by simpa [hd] using hu
      simp [hd, h7]
  have h2 : ¬(namesBlocks k = true ∧ 4294967295 < r.lba.toNat + blockCount r.count - 1) := by
    rintro ⟨a, b⟩
    have := hb a
    omega
  simp only [h1, h2, if_false]

/-! ### Arrival (R25 to R28) -/

/-- R25: a busy tag. -/
theorem requestArrives_busy {r : Request} {u : State} (h : (entryOf r.tag u).isSome) :
    requestArrives r u = setFlag .link u := by simp [requestArrives, h]

/-- R26: a refused request. -/
theorem requestArrives_refused {r : Request} {u : State} {c : Cause} (he : entryOf r.tag u = none)
    (h : arrivalCheck r = some c) :
    requestArrives r u = sendCmpl r.tag .refused c (arrivalRemaining r) 0 (clearWithdrawn r.tag u) := by
  simp only [requestArrives, he, h, Option.isSome_none, Bool.false_eq_true, if_false]

/-- R27, R28: a placed request. -/
theorem requestArrives_placed {r : Request} {u : State} {k : Kind} (he : entryOf r.tag u = none)
    (h : arrivalCheck r = none) (hk : kindOf r.code = some k) :
    requestArrives r u = placeRequest k r (clearWithdrawn r.tag u) := by
  simp only [requestArrives, he, h, hk, Option.isSome_none, Bool.false_eq_true, if_false]

theorem kindOf_kindCode (k : Kind) : kindOf (kindCode k) = some k := by cases k <;> rfl

/-- R27, R46: a data request that passes the arrival checks is placed. -/
theorem requestArrives_data {k : Kind} {t : Tag} {unit n : Byte} {lba : Word} {u : State} (he : entryOf t u = none)
    (hd : isDataKind k = true) (hu : unit.toNat ≤ 3)
    (hb : namesBlocks k = true → lba.toNat + blockCount n - 1 ≤ 4294967295) :
    requestArrives (dataRequest k t unit n lba) u =
      placeRequest k (dataRequest k t unit n lba) (clearWithdrawn t u) :=
  requestArrives_placed (r := dataRequest k t unit n lba) he
    (arrivalCheck_none (kindOf_kindCode k) (by rw [hd]; exact hu) hb) (kindOf_kindCode k)

/-- R27, R28: a management request to unit 7 is placed. -/
theorem requestArrives_param {k : Kind} {t : Tag} {a b c : Word} {u : State} (he : entryOf t u = none)
    (hd : isDataKind k = false) :
    requestArrives (paramRequest k t 7 a b c) u = placeRequest k (paramRequest k t 7 a b c) (clearWithdrawn t u) :=
  requestArrives_placed (r := paramRequest k t 7 a b c) he
    (arrivalCheck_none (kindOf_kindCode k) (by simp [hd, paramRequest])
      (fun h => by cases k <;> simp_all [isDataKind, namesBlocks])) (kindOf_kindCode k)

/-- The kinds that join the management queue (R27). -/
def queuesAtMgu (k : Kind) : Bool := !isDataKind k && k ≠ .keepalive && k ≠ .peek

theorem placeRequest_management {k : Kind} (h : queuesAtMgu k = true) (r : Request) (u : State) :
    placeRequest k r u = joinManagement k r u := by
  cases k <;> first | rfl | (simp [queuesAtMgu, isDataKind] at h)

theorem newEntry_management {k : Kind} (h : queuesAtMgu k = true) (st : EntryState) (r : Request) :
    newEntry k st r [] = freshEntry st k r.unit 0 0 r.p0 r.p1 r.p2 [] := by
  cases k <;> first | rfl | (simp [queuesAtMgu, isDataKind] at h)

/-- R159, R160: MGU takes the head of its queue. -/
theorem mguStep_takes {s : State} {t : Tag} {rest : List Tag} {e : Entry} (hx : s.mgu.exec = .idle)
    (hl : s.svm.partState ≠ .loading) (hm : s.rqt.mgmt = t :: rest) (he : entryOf t s = some e) :
    mguStep s = some (mguActs t { e with state := .active }
      (setEntry t (some { e with state := .active }) (s.setRqt { s.rqt with mgmt := rest }))) := by
  unfold mguStep
  rw [if_pos ⟨hx, hl⟩, hm]
  simp only [he]

/-- R159, R160: MGU takes a management request at its arrival. -/
theorem requestArrives_taken {r : Request} {u : State} {k : Kind} (ht : TakenAtOnce r.tag u)
    (hk : kindOf r.code = some k) (hq : queuesAtMgu k = true) (h7 : r.unit = 7) :
    requestArrives r u =
      mguActs r.tag (freshEntry .active k 7 0 0 r.p0 r.p1 r.p2 []) (takeManagement r.tag k r.p0 r.p1 r.p2 u) := by
  obtain ⟨he, hx, hl, hm⟩ := ht
  have hd : isDataKind k = false := by cases k <;> simp_all [queuesAtMgu, isDataKind]
  have hb : namesBlocks k = false := by cases k <;> simp_all [queuesAtMgu, isDataKind, namesBlocks]
  rw [requestArrives_placed he (arrivalCheck_none hk (by simp [hd, h7]) (by simp [hb])) hk,
    placeRequest_management hq]
  unfold joinManagement
  simp only [newEntry_management hq, h7]
  have key := fun v : State => fun hv : v = (setEntry r.tag (some (freshEntry .queued k 7 0 0 r.p0 r.p1 r.p2 []))
      (clearWithdrawn r.tag u)) => mguStep_takes (s := v.setRqt { v.rqt with mgmt := v.rqt.mgmt ++ [r.tag] })
    (t := r.tag) (rest := []) (e := freshEntry .queued k 7 0 0 r.p0 r.p1 r.p2 []) (by subst hv; exact hx)
    (by subst hv; exact hl) (by subst hv; show u.rqt.mgmt ++ [r.tag] = [r.tag]; rw [hm]; rfl)
    (by subst hv; simp [entryOf, setEntry])
  rw [key _ rfl]
  simp only [Option.getD_some]
  congr 1
  simp only [setEntry, clearWithdrawn, takeManagement, takeEntry, State.setRqt, State.setUlc, Vector.set_set, hm]
  rfl

/-- R159: MGU takes nothing while it is busy or the part is LOADING. -/
theorem mguStep_waits {s : State} (h : s.mgu.exec ≠ .idle ∨ s.svm.partState = .loading) : mguStep s = none := by
  unfold mguStep
  rcases h with h | h <;> simp [h]

/-- R27, R159: a management request waits. -/
theorem requestArrives_waits {r : Request} {u : State} {k : Kind} (he : entryOf r.tag u = none)
    (hk : kindOf r.code = some k) (hq : queuesAtMgu k = true) (h7 : r.unit = 7)
    (hw : u.mgu.exec ≠ .idle ∨ u.svm.partState = .loading) :
    requestArrives r u = takeEntry r.tag (freshEntry .queued k 7 0 0 r.p0 r.p1 r.p2 [])
      (u.setRqt { u.rqt with mgmt := u.rqt.mgmt ++ [r.tag] }) := by
  have hd : isDataKind k = false := by cases k <;> simp_all [queuesAtMgu, isDataKind]
  have hb : namesBlocks k = false := by cases k <;> simp_all [queuesAtMgu, isDataKind, namesBlocks]
  rw [requestArrives_placed he (arrivalCheck_none hk (by simp [hd, h7]) (by simp [hb])) hk,
    placeRequest_management hq]
  unfold joinManagement
  simp only [newEntry_management hq, h7]
  have key := fun v : State => fun hv : v = (setEntry r.tag (some (freshEntry .queued k 7 0 0 r.p0 r.p1 r.p2 []))
      (clearWithdrawn r.tag u)) => mguStep_waits (s := v.setRqt { v.rqt with mgmt := v.rqt.mgmt ++ [r.tag] })
    (by subst hv; exact hw)
  rw [key _ rfl]
  rfl

/-- R160: the command of a management request that MGU takes at once. -/
theorem exec_taken {s u : State} {c : Instr} {t : Tag} {k : Kind} {p0 p1 p2 : Word} (hs : StandsAt s u)
    (ht : TakenAtOnce t u) (hc : requestIn c = some (paramRequest k t 7 p0 p1 p2)) (hq : queuesAtMgu k = true) :
    exec c s = .next (finish (mguActs t (freshEntry .active k 7 0 0 p0 p1 p2 [])
      (takeManagement t k p0 p1 p2 u))) := by
  rw [request_event hs hc, requestArrives_taken (r := paramRequest k t 7 p0 p1 p2) ht (kindOf_kindCode k) hq rfl]
  rfl

theorem takeEntry_entryOf_ne {t t' : Tag} (h : t' ≠ t) (e : Entry) (u : State) :
    entryOf t' (takeEntry t e u) = entryOf t' u := by
  have e' : t.val ≠ t'.val := fun x => h (Fin.ext x).symm
  simp [takeEntry, entryOf, Vector.getElem_set_ne, e']

theorem takeEntry_entryOf (t : Tag) (e : Entry) (u : State) : entryOf t (takeEntry t e u) = some e := by
  simp [takeEntry, entryOf]

theorem takeEntry_withdrawn_ne {t t' : Tag} (h : t' ≠ t) (e : Entry) (u : State) :
    (takeEntry t e u).ulc.withdrawn[t'] = u.ulc.withdrawn[t'] := by
  have e' : t.val ≠ t'.val := fun x => h (Fin.ext x).symm
  simp [takeEntry, Vector.getElem_set_ne, e']

/-- R41: the answer to a request that was taken in the same event. -/
theorem Answers.of_take {t : Tag} {o : ReqOutcome} {c : Cause} {r d : Nat} {e : Entry} {u w : State}
    (h : Answers t o c r d (takeEntry t e u) w) : Answers t o c r d u w :=
  h.from rfl (fun _ n => takeEntry_entryOf_ne n e u) rfl rfl rfl rfl rfl rfl
    (fun _ n => takeEntry_withdrawn_ne n e u) rfl

/-- R41: an answer reads nothing of the maps, MGU, the store, supervision and the media side. -/
theorem Answers.of_view {t : Tag} {o : ReqOutcome} {c : Cause} {r d : Nat} {u v w : State} (h : Answers t o c r d v w)
    (h1 : v.ulc = u.ulc) (h2 : v.rqt = u.rqt) (h3 : v.mve = u.mve) : Answers t o c r d u w :=
  h.from (by unfold handed; rw [h1]) (fun t' _ => by unfold entryOf; rw [h2]) (by rw [h2]) (by rw [h2]) (by rw [h2])
    (by rw [h2]) (by rw [h2]) (by rw [h1]) (fun _ _ => by rw [h1]) h3

theorem takeEntry_sameMedia (t : Tag) (e : Entry) (u : State) : SameMedia u (takeEntry t e u) :=
  ⟨rfl, rfl, rfl, rfl, rfl, rfl, rfl⟩

theorem takeEntry_sameManagement (t : Tag) (e : Entry) (u : State) : SameManagement u (takeEntry t e u) :=
  ⟨rfl, rfl, rfl, rfl⟩

/-- R41: a request taken and refused in one event. -/
theorem refused_at_once (t : Tag) (k : Kind) (a b c : Word) (u : State) (cause : Cause) (d : Nat) :
    Answers t .refused cause 0 d u (complete t .refused cause 0 d (takeManagement t k a b c u)) ∧
    SameMedia u (complete t .refused cause 0 d (takeManagement t k a b c u)) ∧
    SameManagement u (complete t .refused cause 0 d (takeManagement t k a b c u)) :=
  ⟨(complete_answers t .refused cause 0 d _).of_take, (takeEntry_sameMedia t _ u).complete _ _ _ _ _,
    (takeEntry_sameManagement t _ u).complete _ _ _ _ _⟩

end Sys2Proof.Machine
end

