-- ==== Sys2Proof/Laws/Steps.lean ====
section
/-! SUPPORT. The part's own steps: how a command takes one, the lowest free record, and what a probe start does. -/

namespace Sys2Proof.Machine

/-! ### Own steps -/

theorem ownStep_some {f : State → Option State} {s t : State} (hr : running s = true) (h : f s = some t) :
    ownStep f s = finish t := by simp [ownStep, hr, h]

theorem ownStep_none {f : State → Option State} {s : State} (hr : running s = true) (h : f s = none) :
    ownStep f s = s := by simp [ownStep, hr, h]

theorem ownEvent_some {f : State → Option State} {s u t : State} (hr : running s = true) (hu : settlePrompt s = u)
    (h : f u = some t) : ownEvent f s = finish t := by simp [ownEvent, hr, hu, h]

theorem ownEvent_none {f : State → Option State} {s u : State} (hr : running s = true) (hu : settlePrompt s = u)
    (h : f u = none) : ownEvent f s = u := by simp [ownEvent, hr, hu, h]

/-! ### The pool -/

/-- R54: the lowest-numbered free record. -/
theorem lowestFree_of {id : PieceId} {u : State} (h : LowestFree id u) : lowestFree u = some id := by
  unfold lowestFree allPieces
  rw [List.find?_eq_some_iff_append]
  refine ⟨by simp [h.1], (List.finRange 48).take id.val, (List.finRange 48).drop (id.val + 1), ?_, ?_⟩
  · have e := List.take_append_drop id.val (List.finRange 48)
    rw [List.drop_eq_getElem_cons (by simp)] at e
    simpa using e.symm
  · intro a ha
    rw [List.mem_take_iff_getElem] at ha
    obtain ⟨k, hk, rfl⟩ := ha
    simp only [List.length_finRange] at hk
    have := h.2 ⟨k, by omega⟩ (Fin.lt_def.mpr (by simp only []; omega))
    simp only [List.getElem_finRange]
    cases e : pieceOf (Fin.cast _ ⟨k, _⟩) u with
    | none => exact absurd e this
    | some v => rfl

/-- R57: a port in service gives no cause. -/
theorem outOfService_inService {p : PortId} {u : State} (h : inService p u) :
    outOfService (portOf p u).state = none := by
  obtain ⟨h1, h2⟩ := h
  revert h1 h2
  cases (portOf p u).state <;> simp [outOfService]

/-- R57: the cause of a port out of service. -/
theorem outOfService_cause {p : PortId} {u : State} (h : ¬inService p u) :
    outOfService (portOf p u).state = some (serviceCause p u) := by
  unfold inService at h
  unfold serviceCause
  revert h
  cases (portOf p u).state <;> simp [outOfService]

/-! ### Ports -/

/-- R83: what a probe start does. -/
theorem startProbe_eq (p : PortId) (st : PortState) (s : State) :
    startProbe p st s = (s.setPorts (s.ports.set p (probing st (portOf p s)))).setOut
      { s.out with media := s.out.media ++ probeFrames p } := by
  unfold startProbe sendMedia modPort setPort probing probeFrames portOf
  simp [State.setPorts, State.setOut]

end Sys2Proof.Machine
end

