-- ==== Sys2Proof/Laws/Shrinks.lean ====
section
/-! SUPPORT. What the end of pieces can do to the pool, the queues, the free list and the grants: records are freed and
never taken, queues and grants only lose, and slots only return (R60, R65, R72). -/

namespace Sys2Proof.Machine

/-- Between `s` and `t` pieces, queues and grants only went, and slots only returned; a piece that left its queue is
gone. -/
def Shrinks (s t : State) : Prop :=
  (∀ id, pieceOf id s = none → pieceOf id t = none) ∧ (∀ p id, id ∈ queueOf p t → id ∈ queueOf p s) ∧
    (∀ id, id ∈ t.psc.waiting → id ∈ s.psc.waiting) ∧ (∀ k, k ∈ s.spa.free → k ∈ t.spa.free) ∧
    (∀ g, g ∈ t.ulc.grants → g ∈ s.ulc.grants) ∧
    ∀ p id, id ∈ queueOf p s → id ∈ queueOf p t ∨ pieceOf id t = none

theorem Shrinks.refl (s : State) : Shrinks s s :=
  ⟨fun _ h => h, fun _ _ h => h, fun _ h => h, fun _ h => h, fun _ h => h, fun _ _ h => .inl h⟩

theorem Shrinks.trans {s t u : State} (h : Shrinks s t) (k : Shrinks t u) : Shrinks s u :=
  ⟨fun i x => k.1 i (h.1 i x), fun p i x => h.2.1 p i (k.2.1 p i x), fun i x => h.2.2.1 i (k.2.2.1 i x),
    fun i x => k.2.2.2.1 i (h.2.2.2.1 i x), fun i x => h.2.2.2.2.1 i (k.2.2.2.2.1 i x),
    fun p i x => (h.2.2.2.2.2 p i x).elim (fun y => k.2.2.2.2.2 p i y) (fun y => .inr (k.1 i y))⟩

theorem Shrinks.of_eq {s t : State} (h1 : t.psc = s.psc) (h2 : t.spa = s.spa) (h3 : t.ulc.grants = s.ulc.grants) :
    Shrinks s t := by
  refine ⟨fun i x => ?_, fun p i x => ?_, fun i x => ?_, fun i x => ?_, fun i x => ?_, fun p i x => .inl ?_⟩
  · unfold pieceOf at x ⊢; rw [h1]; exact x
  · unfold queueOf at x ⊢; rw [← h1]; exact x
  · rw [← h1]; exact x
  · rw [h2]; exact x
  · rw [← h3]; exact x
  · unfold queueOf at x ⊢; rw [h1]; exact x

theorem Shrinks.foldl {α : Type} {f : State → α → State} (h : ∀ s a, Shrinks s (f s a)) (l : List α) (s : State) :
    Shrinks s (l.foldl f s) := by
  induction l generalizing s with
  | nil => exact .refl s
  | cons a l ih => exact (h s a).trans (ih _)

/-- R72: a piece that is gone stays gone. -/
theorem PieceGone.shrinks {id : PieceId} {q : Piece} {s t : State} (h : PieceGone id q s) (k : Shrinks s t) :
    PieceGone id q t :=
  ⟨k.1 _ h.1, fun p x => h.2.1 p (k.2.1 p _ x), fun x => h.2.2.1 (k.2.2.1 _ x),
    fun i x => k.2.2.2.1 _ (h.2.2.2.1 i x), fun g x => h.2.2.2.2 g (k.2.2.2.2.1 g x)⟩

theorem PieceGone.of_slots {id : PieceId} {q q' : Piece} {s : State} (e : q.slots = q'.slots) (h : PieceGone id q s) :
    PieceGone id q' s := ⟨h.1, h.2.1, h.2.2.1, fun k hk => h.2.2.2.1 k (e ▸ hk), h.2.2.2.2⟩

/-! ### The operations -/

theorem pieceOf_setPiece_self (id : PieceId) (p : Option Piece) (s : State) : pieceOf id (setPiece id p s) = p := by
  simp [pieceOf, setPiece]

theorem pieceOf_setPiece_ne {id j : PieceId} (h : j ≠ id) (p : Option Piece) (s : State) :
    pieceOf j (setPiece id p s) = pieceOf j s := by
  have e : id.val ≠ j.val := fun e => h (Fin.ext e).symm
  simp [pieceOf, setPiece, Vector.getElem_set_ne, e]

theorem Shrinks.setPiece_none (id : PieceId) (s : State) : Shrinks s (setPiece id none s) := by
  refine ⟨fun i x => ?_, fun _ _ h => h, fun _ h => h, fun _ h => h, fun _ h => h, fun _ _ h => .inl h⟩
  by_cases e : i = id
  · subst e; exact pieceOf_setPiece_self ..
  · rw [pieceOf_setPiece_ne e]; exact x

theorem Shrinks.modPiece (id : PieceId) (f : Piece → Piece) (s : State) : Shrinks s (modPiece id f s) := by
  refine ⟨fun i x => ?_, fun _ _ h => h, fun _ h => h, fun _ h => h, fun _ h => h, fun _ _ h => .inl h⟩
  unfold Machine.modPiece
  by_cases e : i = id
  · subst e; rw [pieceOf_setPiece_self, x]; rfl
  · rw [pieceOf_setPiece_ne e]; exact x

theorem Shrinks.setEntry (t : Tag) (e : Option Entry) (s : State) : Shrinks s (setEntry t e s) := .of_eq rfl rfl rfl

theorem Shrinks.modEntry (t : Tag) (f : Entry → Entry) (s : State) : Shrinks s (modEntry t f s) := .of_eq rfl rfl rfl

theorem Shrinks.withdrawGrants (q : Grant → Bool) (s : State) : Shrinks s (withdrawGrants q s) := by
  refine ⟨fun i x => ?_, fun p i x => ?_, fun i x => ?_, fun i x => ?_, fun g x => ?_, fun p i x => .inl ?_⟩
  · rw [withdrawGrants_ulc]; exact x
  · rw [withdrawGrants_ulc] at x; exact x
  · rw [withdrawGrants_ulc] at x; exact x
  · rw [withdrawGrants_ulc]; exact x
  · rw [withdrawGrants_grants] at x; exact (List.mem_filter.mp x).1
  · rw [withdrawGrants_ulc]; exact x

/-- R61: claims are withdrawn in SPA alone, and its slots, free list and pointer stay. -/
theorem withdrawClaims_eq (l : List PortId) (s : State) :
    ∃ x : Spa, x.free = s.spa.free ∧ x.slots = s.spa.slots ∧ x.pointer = s.spa.pointer ∧
      l.foldl (fun s p => Machine.withdrawClaim p s) s = s.setSpa x := by
  induction l generalizing s with
  | nil => exact ⟨s.spa, rfl, rfl, rfl, rfl⟩
  | cons a l ih =>
    obtain ⟨x, h1, h2, h3, h4⟩ := ih (Machine.withdrawClaim a s)
    exact ⟨x, h1, h2, h3, by rw [List.foldl_cons, h4]; rfl⟩

/-- R62: a port whose claim is withdrawn neither holds the reserve nor waits for it; the ports that do waited for it, or
stood at the limit with a claim when their neighbour gave it up (log 12). -/
theorem withdrawClaim_reserve (p q : PortId) (s : State) (h : q ∈ (withdrawClaim p s).spa.reserve) :
    q ≠ p ∧ (q ∈ s.spa.reserve ∨
      s.spa.reserve.head? = some p ∧ s.spa.passOver[q] = Config.passOverLimit ∧ (claimOf q s).isSome) := by
  have h : q ∈ (if s.spa.reserve.head? = some p then reserveAfter p s else s.spa.reserve.filter (· ≠ p)) := h
  split at h
  · next hp =>
    unfold reserveAfter at h
    simp only [List.mem_filter, Bool.and_eq_true, Bool.or_eq_true, decide_eq_true_eq, ne_eq] at h
    exact ⟨h.2.1, h.2.2.imp id fun k => ⟨hp, k⟩⟩
  · simp only [List.mem_filter, decide_eq_true_eq, ne_eq] at h
    exact ⟨h.2, .inl h.1⟩

/-- R58: a piece leaves the queues that hold it; the order of the others is kept. -/
theorem leaveQueues_eq (id : PieceId) (s : State) :
    ∃ x : Spa, x.free = s.spa.free ∧ x.slots = s.spa.slots ∧ x.pointer = s.spa.pointer ∧
      leaveQueues id s = (s.setSpa x).setPsc { s.psc with queues := mapVec (leaveSet id) s.psc.queues } := by
  obtain ⟨x, h1, h2, h3, h4⟩ := withdrawClaims_eq
    (allPorts.filter fun p => (queueOf p s).head? = some id ∧ (claimOf p s).isSome) s
  refine ⟨x, h1, h2, h3, ?_⟩
  unfold leaveQueues
  dsimp only
  rw [h4]
  rfl

theorem queueOf_leave (id : PieceId) (p : PortId) (x : Psc) (s : State) :
    queueOf p (s.setPsc { x with queues := mapVec (leaveSet id) s.psc.queues }) = leaveSet id (queueOf p s) :=
  mapVec_get ..

theorem Shrinks.withdrawClaim (p : PortId) (s : State) : Shrinks s (withdrawClaim p s) :=
  ⟨fun _ h => h, fun _ _ h => h, fun _ h => h, fun _ h => h, fun _ h => h, fun _ _ h => .inl h⟩

theorem Shrinks.releaseSlots (l : List SlotId) (s : State) : Shrinks s (releaseSlots l s) :=
  ⟨fun _ h => h, fun _ _ h => h, fun _ h => h, fun _ h => List.mem_append_left _ h, fun _ h => h,
    fun _ _ h => .inl h⟩

theorem detachPiece_none {id : PieceId} {s : State} (h : pieceOf id s = none) : detachPiece id s = s := by
  unfold detachPiece; rw [h]

/-- R72: the record of a piece is freed, with all that it held. -/
theorem detachPiece_eq {id : PieceId} {q : Piece} {s : State} (h : pieceOf id s = some q) :
    ∃ (u : Ulc) (x : Spa), u.grants = s.ulc.grants.filter (fun g => !decide (g.target = .piece id)) ∧
      u.tx.filter notGrant = s.ulc.tx.filter (fun f => notGrant f && match f with
        | .readData i _ _ _ => i ≠ id
        | _ => true) ∧
      x.free = s.spa.free ++ q.slots ∧ x.slots = s.spa.slots ∧ x.pointer = s.spa.pointer ∧
      detachPiece id s = (((s.setUlc u).setSpa x).setPsc {
        pieces := s.psc.pieces.set id none, queues := mapVec (leaveSet id) s.psc.queues
        waiting := leaveSet id s.psc.waiting }).setMve (s.mve.map fun m => { m with
          shadows := leaveSet id m.shadows, piece := if m.piece = some id then none else m.piece }) := by
  have hg := withdrawGrants_grants (fun g => decide (g.target = .piece id)) s
  have hh := withdrawGrants_handed (fun g => decide (g.target = .piece id)) s
  have hu := withdrawGrants_ulc (fun g => decide (g.target = .piece id)) s
  unfold detachPiece
  rw [h]
  dsimp only
  generalize Machine.withdrawGrants (fun g => decide (g.target = .piece id)) s = v at hg hh hu ⊢
  generalize hw : withdrawFrames _ v = w
  have ew : ∃ u, w = s.setUlc u ∧ u.grants = v.ulc.grants ∧ u.tx.filter notGrant = s.ulc.tx.filter (fun f => notGrant f && match f with
        | .readData i _ _ _ => i ≠ id
        | _ => true) := by
    refine ⟨w.ulc, ?_, ?_, ?_⟩
    · rw [← hw, hu]; rfl
    · rw [← hw]; rfl
    · rw [← hw]
      have hv : List.filter notGrant v.ulc.tx = List.filter notGrant s.ulc.tx := hh
      have e : ∀ (r : TxFrame → Bool) (l : List TxFrame), (l.filter r).filter notGrant = (l.filter notGrant).filter r :=
        fun r l => by rw [List.filter_filter, List.filter_filter]; congr 1; funext f; exact Bool.and_comm ..
      show List.filter notGrant (List.filter _ v.ulc.tx) = _
      rw [e, hv, List.filter_filter]
      congr 1
      funext f
      cases f <;> simp [notGrant]
  obtain ⟨u, e, e1, e2⟩ := ew
  obtain ⟨x, h1, h2, h3, h4⟩ := leaveQueues_eq id w
  rw [h4, e]
  rw [e] at h1 h2 h3
  exact ⟨u, { x with free := x.free ++ q.slots }, by rw [e1, hg], e2, by rw [h1]; rfl, h2, h3, rfl⟩

theorem Shrinks.detachPiece (id : PieceId) (s : State) : Shrinks s (detachPiece id s) := by
  cases hq : pieceOf id s with
  | none => rw [detachPiece_none hq]; exact .refl s
  | some q =>
    obtain ⟨u, x, h1, _, h3, _, _, h⟩ := detachPiece_eq hq
    rw [h]
    refine ⟨fun i y => ?_, fun p i y => ?_, fun i y => (List.mem_filter.mp y).1, fun i y => ?_, fun g y => ?_,
      fun p i y => ?_⟩
    · exact (Shrinks.setPiece_none id s).1 i y
    · have e : i ∈ leaveSet id (queueOf p s) := by
        rw [← queueOf_leave id p s.psc s]; exact y
      exact (List.mem_filter.mp e).1
    · show i ∈ x.free
      rw [h3]; exact List.mem_append_left _ y
    · have e : g ∈ u.grants := y
      rw [h1] at e; exact (List.mem_filter.mp e).1
    · by_cases c : i = id
      · right; subst c; exact pieceOf_setPiece_self i none s
      · left
        have e : i ∈ leaveSet id (queueOf p s) := List.mem_filter.mpr ⟨y, by simpa using c⟩
        rw [← queueOf_leave id p s.psc s] at e; exact e

/-- R72: the record of a piece is freed, with all that it held. -/
theorem detachPiece_gone {id : PieceId} {q : Piece} {s : State} (h : pieceOf id s = some q) :
    PieceGone id q (detachPiece id s) := by
  obtain ⟨u, x, h1, _, h3, _, _, e⟩ := detachPiece_eq h
  rw [e]
  refine ⟨?_, fun p y => ?_, fun y => ?_, fun k hk => ?_, fun g hg => ?_⟩
  · exact pieceOf_setPiece_self id none s
  · have e : id ∈ leaveSet id (queueOf p s) := by
      rw [← queueOf_leave id p s.psc s]; exact y
    simp [leaveSet] at e
  · simp [leaveSet] at y
  · show k ∈ x.free
    rw [h3]; exact List.mem_append_right _ hk
  · have e : g ∈ u.grants := hg
    rw [h1] at e
    simpa using (List.mem_filter.mp e).2

/-- R72: other records stay as they are. -/
theorem detachPiece_other {id j : PieceId} (h : j ≠ id) (s : State) : pieceOf j (detachPiece id s) = pieceOf j s := by
  cases hq : pieceOf id s with
  | none => rw [detachPiece_none hq]
  | some q =>
    obtain ⟨u, x, _, _, _, _, _, e⟩ := detachPiece_eq hq
    rw [e]
    exact pieceOf_setPiece_ne h none s

/-- R72: the requests are not touched. -/
theorem detachPiece_rqt (id : PieceId) (s : State) : (detachPiece id s).rqt = s.rqt := by
  cases hq : pieceOf id s with
  | none => rw [detachPiece_none hq]
  | some q =>
    obtain ⟨u, x, _, _, _, _, _, e⟩ := detachPiece_eq hq
    rw [e]
    rfl

theorem detachPiece_entryOf (id : PieceId) (t : Tag) (s : State) : entryOf t (detachPiece id s) = entryOf t s := by
  unfold entryOf; rw [detachPiece_rqt]

theorem Shrinks.complete (t : Tag) (o : ReqOutcome) (c : Cause) (r d : Nat) (s : State) :
    Shrinks s (complete t o c r d s) := by
  refine ⟨fun i x => ?_, fun p i x => ?_, fun i x => ?_, fun i x => ?_, fun g x => ?_, fun p i x => .inl ?_⟩
  · unfold pieceOf at x ⊢; rw [complete_psc]; exact x
  · unfold queueOf at x ⊢; rw [complete_psc] at x; exact x
  · rw [complete_psc] at x; exact x
  · rw [complete_spa]; exact x
  · rw [complete_ulc, withdrawGrants_grants] at x; exact (List.mem_filter.mp x).1
  · unfold queueOf at x ⊢; rw [complete_psc]; exact x

theorem Shrinks.completeData (t : Tag) (e : Entry) (s : State) : Shrinks s (completeData t e s) := by
  unfold Machine.completeData
  repeat' split
  all_goals exact .complete ..

theorem Shrinks.completeFlush (t : Tag) (e : Entry) (s : State) : Shrinks s (completeFlush t e s) := by
  unfold Machine.completeFlush
  repeat' split
  all_goals exact .complete ..

theorem Shrinks.tryComplete (t : Tag) (s : State) : Shrinks s (tryComplete t s) := by
  unfold Machine.tryComplete
  split
  · exact .refl s
  · split
    · split
      · split
        · exact .completeData ..
        · exact .refl s
      · split
        · split
          · exact .completeFlush ..
          · exact .refl s
        · exact .refl s
    · exact .refl s

theorem Shrinks.trimActive (t : Tag) (s : State) : Shrinks s (trimActive t s) := by
  unfold Machine.trimActive
  split
  · exact .refl s
  · split
    · exact .refl s
    · exact .of_eq rfl rfl rfl

theorem Shrinks.dropPiece (t : Tag) (id : PieceId) (s : State) : Shrinks s (dropPiece t id s) := by
  unfold Machine.dropPiece
  split
  · exact .refl _
  · exact (Shrinks.detachPiece id s).trans (.modEntry ..)

theorem Shrinks.dropPieces (t : Tag) (q : Piece → Bool) (s : State) : Shrinks s (dropPieces t q s) :=
  .foldl (fun s a => .dropPiece t a s) _ _

theorem Shrinks.stopFlush (t : Tag) (s : State) : Shrinks s (stopFlush t s) := by
  unfold Machine.stopFlush
  dsimp only
  generalize hv : State.setRqt _ (Machine.modEntry t _ s) = v
  exact Shrinks.trans (.of_eq (by rw [← hv]; rfl) (by rw [← hv]; rfl) (by rw [← hv]; rfl)) (.dropPieces ..)

theorem Shrinks.dataOutcome (t : Tag) (e : Entry) (p : Piece) (o : PieceOutcome) (s : State) :
    Shrinks s (dataOutcome t e p o s) := by
  unfold Machine.dataOutcome
  dsimp only
  split
  · exact (Shrinks.setEntry t _ s).trans (.tryComplete ..)
  · exact (Shrinks.setEntry t _ s).trans (.tryComplete ..)
  · split
    · exact ((Shrinks.setEntry t _ s).trans (.dropPieces ..)).trans ((Shrinks.trimActive ..).trans (.tryComplete ..))
    · exact (Shrinks.setEntry t _ s).trans (.tryComplete ..)

theorem Shrinks.flushOutcome (t : Tag) (e : Entry) (p : Piece) (o : PieceOutcome) (s : State) :
    Shrinks s (flushOutcome t e p o s) := by
  unfold Machine.flushOutcome
  dsimp only
  split
  · exact (Shrinks.setEntry t _ s).trans (.tryComplete ..)
  · exact (Shrinks.setEntry t _ s).trans (.tryComplete ..)
  · split
    · exact ((Shrinks.setEntry t _ s).trans (.stopFlush ..)).trans (.tryComplete ..)
    · exact (Shrinks.setEntry t _ s).trans (.tryComplete ..)

theorem Shrinks.requestOutcome (t : Tag) (p : Piece) (o : PieceOutcome) (s : State) :
    Shrinks s (requestOutcome t p o s) := by
  unfold Machine.requestOutcome
  split
  · exact .refl _
  · split
    · exact .flushOutcome ..
    · exact .dataOutcome ..

theorem Shrinks.clearFaults (p : PortId) (s : State) : Shrinks s (clearFaults p s) := .of_eq rfl rfl rfl

/-- R72: a piece ends and is gone. -/
theorem pieceEnds_gone {id : PieceId} {q : Piece} {s : State} (h : pieceOf id s = some q) (o : PieceOutcome)
    (a : Option PortId) : PieceGone id q (pieceEnds id o a s) := by
  have g := detachPiece_gone h
  unfold pieceEnds
  rw [h]
  dsimp only
  have k : PieceGone id q (match a with
      | some q => Machine.clearFaults q (Machine.detachPiece id s)
      | none => Machine.detachPiece id s) := by
    cases a
    · exact g
    · exact g.shrinks (.clearFaults ..)
  split
  · exact k.shrinks (.requestOutcome ..)
  · exact k
  · exact k

theorem Shrinks.pieceEnds (id : PieceId) (o : PieceOutcome) (a : Option PortId) (s : State) :
    Shrinks s (pieceEnds id o a s) := by
  unfold Machine.pieceEnds
  split
  · exact .refl _
  · dsimp only
    have k : Shrinks s (match a with
        | some q => Machine.clearFaults q (Machine.detachPiece id s)
        | none => Machine.detachPiece id s) := by
      cases a
      · exact .detachPiece ..
      · exact (Shrinks.detachPiece id s).trans (.clearFaults ..)
    split
    · exact k.trans (.requestOutcome ..)
    · exact k
    · exact k

theorem Shrinks.abortPiece (id : PieceId) (s : State) : Shrinks s (abortPiece id s) := by
  unfold Machine.abortPiece
  repeat' split
  all_goals first
    | exact .refl _
    | exact .detachPiece ..
    | exact .modPiece ..
    | exact .pieceEnds ..

theorem Shrinks.abortMove (o : ReqOutcome) (c : Cause) (d : Nat) (b : Bool) (s : State) :
    Shrinks s (abortMove o c d b s) := by
  unfold Machine.abortMove
  split
  · exact .refl _
  · dsimp only
    have k : ∀ (l : List PieceId) (v : State), Shrinks v (l.foldl (fun s id => Machine.abortPiece id s) v) :=
      fun l v => .foldl (fun s a => .abortPiece a s) l v
    have hv : Shrinks s ((s.setXmp { s.xmp with active := settleMap s.xmp.active }).setMve none) :=
      .of_eq rfl rfl rfl
    split
    · exact hv.trans ((k _ _).trans (.complete ..))
    · exact hv.trans (k _ _)

theorem Shrinks.portExitAborts (p : PortId) (c : Cause) (s : State) : Shrinks s (portExitAborts p c s) := by
  unfold Machine.portExitAborts
  repeat' split
  all_goals first
    | exact .refl _
    | exact .abortMove ..

theorem Shrinks.abortAt (l : Option Nat) (c : Cause) (s : State) : Shrinks s (abortAt l c s) := by
  unfold Machine.abortAt
  split
  · exact .abortMove ..
  · exact .refl _

/-- R72, R103: a piece that fails in its source phase is gone. -/
theorem sourceFails_gone {id : PieceId} {q : Piece} {s : State} (h : pieceOf id s = some q) (k : Nat) (c : Cause) :
    PieceGone id q (sourceFails id k c s) := by
  have e : pieceOf id (Machine.modPiece id (fun p => { p with failure := some (k, c) }) s) =
      some { q with failure := some (k, c) } := by
    unfold Machine.modPiece; rw [pieceOf_setPiece_self, h]; rfl
  unfold sourceFails
  rw [h]
  dsimp only
  generalize Machine.modPiece id (fun p => { p with failure := some (k, c) }) s = v at e ⊢
  have g := PieceGone.of_slots (q' := q) rfl (pieceEnds_gone e (.failed k c) none)
  generalize pieceEnds id _ none v = w at g ⊢
  exact g.shrinks (.abortAt ..)

/-- R70, R72: a piece whose destination phase fails is gone. -/
theorem destFails_gone {id : PieceId} {q : Piece} {s : State} (h : pieceOf id s = some q) (k : Nat) (c : Cause) :
    PieceGone id q (destFails id k c s) := by
  have e : pieceOf id (Machine.modPiece id (fun p => { p with failure := some (k, c) }) s) =
      some { q with failure := some (k, c) } := by
    unfold Machine.modPiece; rw [pieceOf_setPiece_self, h]; rfl
  unfold destFails
  rw [h]
  dsimp only
  split
  · generalize Machine.modPiece id (fun p => { p with failure := some (k, c) }) s = v at e ⊢
    have g := PieceGone.of_slots (q' := q) rfl (pieceEnds_gone e (.failed k c) none)
    generalize pieceEnds id _ none v = w at g ⊢
    exact g.shrinks (.abortAt ..)
  · have g := pieceEnds_gone h .done none
    generalize pieceEnds id _ none s = w at g ⊢
    exact g.shrinks (.abortAt ..)

theorem pieceFails_gone {id : PieceId} {q : Piece} {s : State} (h : pieceOf id s = some q) (k : Nat) (c : Cause) :
    PieceGone id q (pieceFails id k c s) := by
  unfold pieceFails
  rw [h]
  dsimp only
  split
  · exact destFails_gone h k c
  · exact sourceFails_gone h k c

theorem Shrinks.sourceFails (id : PieceId) (k : Nat) (c : Cause) (s : State) : Shrinks s (sourceFails id k c s) := by
  unfold Machine.sourceFails
  split
  · exact .refl _
  · exact ((Shrinks.modPiece ..).trans (.pieceEnds ..)).trans (.abortAt ..)

theorem Shrinks.destFails (id : PieceId) (k : Nat) (c : Cause) (s : State) : Shrinks s (destFails id k c s) := by
  unfold Machine.destFails
  split
  · exact .refl _
  · dsimp only
    split
    · exact ((Shrinks.modPiece ..).trans (.pieceEnds ..)).trans (.abortAt ..)
    · exact (Shrinks.pieceEnds ..).trans (.abortAt ..)

theorem Shrinks.pieceFails (id : PieceId) (k : Nat) (c : Cause) (s : State) : Shrinks s (pieceFails id k c s) := by
  unfold Machine.pieceFails
  repeat' split
  all_goals first
    | exact .refl _
    | exact .destFails ..
    | exact .sourceFails ..

theorem failPieces_gone (p : PortId) (c : Cause) (l : List PieceId) (s : State) :
    let f := fun (s : State) id => if id ∈ queueOf p s then pieceFails id 0 c s else s
    Shrinks s (l.foldl f s) ∧
      ∀ id, id ∈ l → id ∈ queueOf p s ∨ pieceOf id s = none → pieceOf id (l.foldl f s) = none := by
  intro f
  have hf : ∀ s id, Shrinks s (f s id) := by
    intro s id
    show Shrinks s (if id ∈ queueOf p s then pieceFails id 0 c s else s)
    split
    · exact .pieceFails ..
    · exact .refl s
  induction l generalizing s with
  | nil => exact ⟨.refl s, fun _ h => by simp at h⟩
  | cons a l ih =>
    obtain ⟨h1, h2⟩ := ih (f s a)
    refine ⟨(hf s a).trans h1, fun id hm hq => ?_⟩
    rw [List.foldl_cons]
    by_cases e : id = a
    · subst e
      refine h1.1 id ?_
      rcases hq with hq | hq
      · show pieceOf id (if id ∈ queueOf p s then pieceFails id 0 c s else s) = none
        rw [if_pos hq]
        cases hp : pieceOf id s with
        | none => exact (Shrinks.pieceFails id 0 c s).1 id hp
        | some q => exact (pieceFails_gone hp 0 c).1
      · exact (hf s id).1 id hq
    · rcases List.mem_cons.mp hm with hm | hm
      · exact absurd hm e
      · refine h2 id hm ?_
        rcases hq with hq | hq
        · exact (hf s a).2.2.2.2.2 p id hq
        · exact .inr ((hf s a).1 id hq)

/-- R80, R81: every piece of a port's queue is gone. -/
theorem failQueue_gone (p : PortId) (c : Cause) (s : State) :
    Shrinks s (failQueue p c s) ∧ ∀ id, id ∈ queueOf p s → pieceOf id (failQueue p c s) = none :=
  ⟨(failPieces_gone p c _ s).1, fun id h => (failPieces_gone p c _ s).2 id h (.inl h)⟩

theorem Shrinks.reportExit (o : PortState) (p : PortId) (c : Cause) (s : State) :
    Shrinks s (reportExit o p c s) := by
  unfold Machine.reportExit
  split
  · exact .portExitAborts ..
  · exact .refl s

theorem Shrinks.endPending (p : PortId) (x : OfflinePending) (s : State) : Shrinks s (endPending p x s) := by
  unfold Machine.endPending
  split
  · have hv : Shrinks s (s.setMgu { s.mgu with exec := .idle, executing := none }) := .of_eq rfl rfl rfl
    exact hv.trans (.complete ..)
  · exact .refl s
  · exact .refl s

end Sys2Proof.Machine
end

