-- ==== Sys2Proof/Laws/Service.lean ====
section
/-! SUPPORT. What a port leaving service does (R80 to R82, R93). -/

namespace Sys2Proof.Machine

@[simp] theorem failQueue_outer (p : PortId) (c : Cause) (s : State) : (failQueue p c s).outer = s.outer :=
  foldl_outer _ (fun s i => by split <;> simp) _ _

@[simp] theorem reportExit_outer (o : PortState) (p : PortId) (c : Cause) (s : State) :
    (reportExit o p c s).outer = s.outer := by
  unfold reportExit; split <;> simp

/-- R109, R110: the exit of a port ends a move from or to it. -/
theorem portExitAborts_ends {p : PortId} {c : Cause} {s : State} {m : Move} (h : s.mve = some m)
    (hp : m.srcPort = p ∨ m.dstPort = p) : (portExitAborts p c s).mve = none := by
  unfold portExitAborts
  rw [h]
  dsimp only
  rw [if_pos hp]
  exact (abortMove_aborts h .failed c m.cursor).1

/-- R110: the parts of a move that a report or an end of a piece leaves alone. -/
def moveEnds (m : Option Move) : Option (PortId × PortId) := m.map fun m => (m.srcPort, m.dstPort)

/-- Between `s` and `t` the move stayed as it was, by its ports, or it is over. -/
def MoveStays (s t : State) : Prop := t.mve = none ∨ moveEnds t.mve = moveEnds s.mve

theorem MoveStays.refl (s : State) : MoveStays s s := .inr rfl

theorem MoveStays.trans {s t u : State} (h : MoveStays s t) (k : MoveStays t u) : MoveStays s u := by
  rcases k with k | k
  · exact .inl k
  · rcases h with h | h
    · left
      unfold moveEnds at k
      rw [h] at k
      cases hu : u.mve with
      | none => rfl
      | some m => rw [hu] at k; simp at k
    · exact .inr (k.trans h)

theorem MoveStays.of_eq {s t : State} (h : t.mve = s.mve) : MoveStays s t := .inr (by rw [h])

theorem MoveStays.foldl {α : Type} {f : State → α → State} (h : ∀ s a, MoveStays s (f s a)) (l : List α)
    (s : State) : MoveStays s (l.foldl f s) := by
  induction l generalizing s with
  | nil => exact .refl s
  | cons a l ih => exact (h s a).trans (ih _)

theorem MoveStays.complete (t : Tag) (o : ReqOutcome) (c : Cause) (r d : Nat) (s : State) :
    MoveStays s (complete t o c r d s) := by
  right
  rw [complete_mve]
  cases s.mve <;> rfl

theorem MoveStays.detachPiece (id : PieceId) (s : State) : MoveStays s (detachPiece id s) := by
  cases hq : pieceOf id s with
  | none => rw [detachPiece_none hq]; exact .refl s
  | some q =>
    obtain ⟨u, x, _, _, _, _, _, e⟩ := detachPiece_eq hq
    right
    rw [e]
    show moveEnds (s.mve.map _) = _
    cases s.mve <;> rfl

theorem MoveStays.completeData (t : Tag) (e : Entry) (s : State) : MoveStays s (completeData t e s) := by
  unfold Machine.completeData
  repeat' split
  all_goals exact .complete ..

theorem MoveStays.completeFlush (t : Tag) (e : Entry) (s : State) : MoveStays s (completeFlush t e s) := by
  unfold Machine.completeFlush
  repeat' split
  all_goals exact .complete ..

theorem MoveStays.tryComplete (t : Tag) (s : State) : MoveStays s (tryComplete t s) := by
  unfold Machine.tryComplete
  split
  · exact .refl s
  · split
    · split
      · split
        · exact .completeData ..
        · exact .refl s
      · split
        · split
          · exact .completeFlush ..
          · exact .refl s
        · exact .refl s
    · exact .refl s

theorem MoveStays.trimActive (t : Tag) (s : State) : MoveStays s (trimActive t s) := by
  unfold Machine.trimActive
  split
  · exact .refl s
  · split
    · exact .refl s
    · exact .of_eq rfl

theorem MoveStays.dropPieces (t : Tag) (q : Piece → Bool) (s : State) : MoveStays s (dropPieces t q s) := by
  refine .foldl (fun s a => ?_) _ _
  unfold dropPiece
  split
  · exact .refl s
  · exact (MoveStays.detachPiece a s).trans (.of_eq rfl)

theorem MoveStays.setEntry (t : Tag) (e : Option Entry) (s : State) : MoveStays s (setEntry t e s) := .of_eq rfl

theorem MoveStays.stopFlush (t : Tag) (s : State) : MoveStays s (stopFlush t s) := by
  unfold Machine.stopFlush
  dsimp only
  generalize hv : State.setRqt _ (Machine.modEntry t _ s) = v
  exact MoveStays.trans (.of_eq (by rw [← hv]; rfl)) (.dropPieces ..)

theorem MoveStays.requestOutcome (t : Tag) (p : Piece) (o : PieceOutcome) (s : State) :
    MoveStays s (requestOutcome t p o s) := by
  unfold Machine.requestOutcome
  split
  · exact .refl s
  · split
    · unfold flushOutcome
      dsimp only
      split
      · exact (MoveStays.setEntry t _ s).trans (.tryComplete ..)
      · exact (MoveStays.setEntry t _ s).trans (.tryComplete ..)
      · split
        · exact ((MoveStays.setEntry t _ s).trans (.stopFlush ..)).trans (.tryComplete ..)
        · exact (MoveStays.setEntry t _ s).trans (.tryComplete ..)
    · unfold dataOutcome
      dsimp only
      split
      · exact (MoveStays.setEntry t _ s).trans (.tryComplete ..)
      · exact (MoveStays.setEntry t _ s).trans (.tryComplete ..)
      · split
        · exact ((MoveStays.setEntry t _ s).trans (.dropPieces ..)).trans ((MoveStays.trimActive ..).trans (.tryComplete ..))
        · exact (MoveStays.setEntry t _ s).trans (.tryComplete ..)

theorem MoveStays.pieceEnds (id : PieceId) (o : PieceOutcome) (a : Option PortId) (s : State) :
    MoveStays s (pieceEnds id o a s) := by
  unfold Machine.pieceEnds
  split
  · exact .refl s
  · dsimp only
    have k : MoveStays s (match a with
        | some q => Machine.clearFaults q (Machine.detachPiece id s)
        | none => Machine.detachPiece id s) := by
      cases a
      · exact .detachPiece ..
      · exact (MoveStays.detachPiece id s).trans (.of_eq rfl)
    split
    · exact k.trans (.requestOutcome ..)
    · exact k
    · exact k

theorem MoveStays.abortAt (l : Option Nat) (c : Cause) (s : State) : MoveStays s (abortAt l c s) := by
  unfold Machine.abortAt
  split
  · cases h : s.mve with
    | none => rw [abortMove_idle h]; exact .refl s
    | some m => exact .inl (abortMove_aborts h _ _ _).1
  · exact .refl s

theorem MoveStays.pieceFails (id : PieceId) (k : Nat) (c : Cause) (s : State) : MoveStays s (pieceFails id k c s) := by
  unfold Machine.pieceFails
  split
  · exact .refl s
  · split
    · unfold destFails
      split
      · exact .refl s
      · dsimp only
        split
        · exact (MoveStays.of_eq rfl).trans ((MoveStays.pieceEnds id _ none
            (modPiece id (fun p => { p with failure := some (k, c) }) s)).trans (.abortAt ..))
        · exact (MoveStays.pieceEnds ..).trans (.abortAt ..)
    · unfold sourceFails
      split
      · exact .refl s
      · exact (MoveStays.of_eq rfl).trans ((MoveStays.pieceEnds id _ none
            (modPiece id (fun p => { p with failure := some (k, c) }) s)).trans (.abortAt ..))

theorem MoveStays.failQueue (p : PortId) (c : Cause) (s : State) : MoveStays s (failQueue p c s) := by
  refine .foldl (fun s a => ?_) _ _
  split
  · exact .pieceFails ..
  · exact .refl s

/-- R82, R109: a port that leaves READY ends a move from or to it. -/
theorem reportExit_ends {p : PortId} {c : Cause} {s t : State} {m : Move} (h : s.mve = some m)
    (hp : m.srcPort = p ∨ m.dstPort = p) (k : MoveStays s t) : (reportExit .ready p c t).mve = none := by
  unfold reportExit
  rw [if_pos rfl]
  cases ht : t.mve with
  | none => unfold portExitAborts; rw [ht]; exact ht
  | some m' =>
    refine portExitAborts_ends ht ?_
    rcases k with k | k
    · rw [k] at ht; exact absurd ht (by simp)
    · unfold moveEnds at k
      rw [ht, h] at k
      simp only [Option.map_some, Option.some.injEq, Prod.mk.injEq] at k
      rw [k.1, k.2]; exact hp

/-- R81, R82, R93: a port enters OFFLINE. -/
theorem enterOffline_outOfService (p : PortId) (c : Cause) (s : State) :
    OutOfService p (offline (portOf p s)) s (enterOffline p c s) ∧ (enterOffline p c s).out = s.out ∧
      (enterOffline p c s).mgu.settings = s.mgu.settings := by
  have hc := enterOffline_control p c s
  unfold enterOffline at hc ⊢
  dsimp only at hc ⊢
  generalize hv : withdrawClaim p (modPort p (fun x => { quietPort .offline x with mrst := true, offlinePending := .no })
    (setFlag .port s)) = v at hc ⊢
  have v1 : v.ports = s.ports.set p (offline (portOf p s)) := by rw [← hv]; rfl
  have v2 : v.mgu = (portNoted s).mgu := by rw [← hv]; rfl
  have v3 : v.mve = s.mve := by rw [← hv]; rfl
  have v4 : v.psc = s.psc := by rw [← hv]; rfl
  have v5 : v.out = s.out := by rw [← hv]; rfl
  have hq := failQueue_gone p c v
  have hm := MoveStays.failQueue p c v
  have ho := failQueue_outer p c v
  have hpo := failQueue_ports p c v
  generalize failQueue p c v = w at hc hq hm ho hpo ⊢
  have he := reportExit_outer (portOf p s).state p .portOffline w
  have hsr := Shrinks.reportExit (portOf p s).state p .portOffline w
  have hpr := reportExit_ports (portOf p s).state p .portOffline w
  have hmr : (portOf p s).state = .ready → ∀ m, s.mve = some m → m.srcPort = p ∨ m.dstPort = p →
      (reportExit (portOf p s).state p .portOffline w).mve = none := by
    intro hr m h1 h2
    rw [hr]
    exact reportExit_ends (v3.trans h1) h2 hm
  generalize reportExit (portOf p s).state p .portOffline w = y at hc he hsr hpr hmr ⊢
  have hme : MoveStays y (endPending p (portOf p s).offlinePending y) := by
    unfold endPending
    split
    · exact MoveStays.trans (t := y.setMgu { y.mgu with exec := .idle, executing := none }) (.of_eq rfl) (.complete ..)
    · exact .refl y
    · exact .refl y
  have hse := Shrinks.endPending p (portOf p s).offlinePending y
  have hmgu : y.mgu = (portNoted s).mgu := by
    have a : y.outer = v.outer := he.trans ho
    exact (congrArg Prod.fst a).trans v2
  have hout : y.out = s.out := by
    have a : y.outer = v.outer := he.trans ho
    exact (congrArg Prod.snd a).trans v5
  have hports : (endPending p (portOf p s).offlinePending y).ports = s.ports.set p (offline (portOf p s)) := by
    rw [endPending_ports, hpr, hpo, v1]
  have hflags : (endPending p (portOf p s).offlinePending y).mgu.flags = { s.mgu.flags with port := true } ∧
      (endPending p (portOf p s).offlinePending y).mgu.settings = s.mgu.settings ∧
      (endPending p (portOf p s).offlinePending y).out = s.out := by
    unfold endPending
    split
    · rw [complete_mgu, complete_out]
      refine ⟨?_, ?_, hout⟩
      · show y.mgu.flags = _; rw [hmgu]; rfl
      · show y.mgu.settings = _; rw [hmgu]; rfl
    · rw [hmgu]; exact ⟨rfl, rfl, hout⟩
    · rw [hmgu]; exact ⟨rfl, rfl, hout⟩
  refine ⟨⟨?_, ?_, hflags.1, ?_, ?_, ?_, ?_, ?_⟩, hflags.2.2, hflags.2.1⟩
  · show (endPending p (portOf p s).offlinePending y).ports[p] = _; rw [hports]; simp
  · intro q hq'
    have e : p.val ≠ q.val := fun e => hq' (Fin.ext e).symm
    show (endPending p (portOf p s).offlinePending y).ports[q] = s.ports[q]
    rw [hports]; simp [Vector.getElem_set_ne, e]
  · intro id hid
    refine hse.1 id (hsr.1 id (hq.2 id ?_))
    unfold queueOf at hid ⊢; rw [v4]; exact hid
  · exact congrArg (·.2.2.2.1) hc
  · exact congrArg (·.2.2.1) hc
  · intro hr m h1 h2
    have hn := hmr hr m h1 h2
    rcases hme with k | k
    · exact k
    · unfold moveEnds at k
      rw [hn] at k
      cases hz : (endPending p (portOf p s).offlinePending y).mve with
      | none => rfl
      | some m => rw [hz] at k; simp at k
  · intro t _ hp
    rw [hp]
    unfold endPending
    dsimp only
    have a := complete_answers t .good .none 0 p.val (y.setMgu { y.mgu with exec := .idle, executing := none })
    refine ⟨⟨a.2.1, a.mem_tx⟩, ?_⟩
    rw [complete_mgu]; rfl

/-- R80, R82: a port enters DOWN. -/
theorem enterDown_outOfService (p : PortId) (s : State) :
    OutOfService p (unplugged (portOf p s)) s (enterDown p s) ∧
      (enterDown p s).out = s.out := by
  have hc := enterDown_control p s
  unfold enterDown at hc ⊢
  dsimp only at hc ⊢
  generalize hv : withdrawClaim p (modPort p (fun x => { quietPort .down x with mrst := false })
    (setFlag .port s)) = v at hc ⊢
  have v1 : v.ports = s.ports.set p (unplugged (portOf p s)) := by rw [← hv]; rfl
  have v2 : v.mgu = (portNoted s).mgu := by rw [← hv]; rfl
  have v3 : v.mve = s.mve := by rw [← hv]; rfl
  have v4 : v.psc = s.psc := by rw [← hv]; rfl
  have v5 : v.out = s.out := by rw [← hv]; rfl
  have hq := failQueue_gone p .portDown v
  have hm := MoveStays.failQueue p .portDown v
  have ho := failQueue_outer p .portDown v
  have hpo := failQueue_ports p .portDown v
  generalize failQueue p .portDown v = w at hc hq hm ho hpo ⊢
  have he := reportExit_outer (portOf p s).state p .portDown w
  have hsr := Shrinks.reportExit (portOf p s).state p .portDown w
  have hpr := reportExit_ports (portOf p s).state p .portDown w
  have hmr : (portOf p s).state = .ready → ∀ m, s.mve = some m → m.srcPort = p ∨ m.dstPort = p →
      (reportExit (portOf p s).state p .portDown w).mve = none := by
    intro hr m h1 h2
    rw [hr]
    exact reportExit_ends (v3.trans h1) h2 hm
  generalize reportExit (portOf p s).state p .portDown w = y at hc he hsr hpr hmr ⊢
  have hmgu : y.mgu = (portNoted s).mgu := (congrArg Prod.fst (he.trans ho)).trans v2
  have hout : y.out = s.out := (congrArg Prod.snd (he.trans ho)).trans v5
  have hports : y.ports = s.ports.set p (unplugged (portOf p s)) := by rw [hpr, hpo, v1]
  refine ⟨⟨?_, ?_, ?_, ?_, ?_, ?_, hmr, ?_⟩, hout⟩
  · show y.ports[p] = _; rw [hports]; simp
  · intro q hq'
    have e : p.val ≠ q.val := fun e => hq' (Fin.ext e).symm
    show y.ports[q] = s.ports[q]; rw [hports]; simp [Vector.getElem_set_ne, e]
  · rw [hmgu]; rfl
  · intro id hid
    refine hsr.1 id (hq.2 id ?_)
    unfold queueOf at hid ⊢; rw [v4]; exact hid
  · exact congrArg (·.2.2.2.1) hc
  · exact congrArg (·.2.2.1) hc
  · intro t h; exact absurd h (by simp [unplugged])

end Sys2Proof.Machine
end

