-- ==== Sys2Proof/Laws/Outcomes.lean ====
section
/-! SUPPORT. What a piece's end does to the request that owns it (R32 to R40, R48, R72). -/

namespace Sys2Proof.Machine

/-! ### Completion -/

theorem answered_complete (t : Tag) (o : ReqOutcome) (c : Cause) (r d : Nat) (s : State) :
    Answered t o c r d (complete t o c r d s) :=
  ⟨(complete_answers t o c r d s).2.1, (complete_answers t o c r d s).mem_tx⟩

theorem completeData_answered (t : Tag) (e : Entry) (s : State) :
    Answered t (outcomeAt e).1 (outcomeAt e).2.1 (outcomeAt e).2.2.1 (outcomeAt e).2.2.2 (completeData t e s) := by
  unfold completeData outcomeAt
  cases e.failure with
  | some f => exact answered_complete ..
  | none =>
    dsimp only
    split
    · exact answered_complete ..
    · exact answered_complete ..

/-- R39, R40: a resolved READ, WRITE or VERIFY stays or completes. -/
theorem tryComplete_data {t : Tag} {e : Entry} {s : State} (h : entryOf t s = some e) (hr : Resolved e) :
    HeldOrAnswered t e (tryComplete t s) := by
  obtain ⟨hk, hs⟩ := hr
  unfold tryComplete HeldOrAnswered
  rw [h]
  dsimp only
  rw [if_pos hs, if_pos hk]
  by_cases hc : e.notEnded = 0 ∧ cuttable e = false
  · rw [if_pos hc, if_pos ⟨hc.1, by simp [hc.2]⟩]
    exact completeData_answered t e s
  · rw [if_neg hc, if_neg (fun x => hc ⟨x.1, by simpa using x.2⟩)]
    exact h

/-- R48: a FLUSH stays or completes. -/
theorem tryComplete_flush {t : Tag} {e : Entry} {s : State} (h : entryOf t s = some e) (hk : e.kind = .flush)
    (hs : e.state = .active ∨ e.state = .draining) : FlushHeldOrAnswered t e (tryComplete t s) := by
  have hn : namesBlocks e.kind = false := by rw [hk]; rfl
  have e1 : tryComplete t s = if e.flPorts.all (fun q => q.2 ≠ .uncut ∧ q.2 ≠ .cut) then completeFlush t e s else s := by
    unfold tryComplete
    rw [h]
    dsimp only
    rw [if_pos hs, hn, if_neg Bool.false_ne_true, if_pos hk]
  have a1 : (e.flPorts.all fun q => decide (q.2 ≠ .uncut ∧ q.2 ≠ .cut)) = true ↔
      ∀ x ∈ e.flPorts, x.2 ≠ .uncut ∧ x.2 ≠ .cut := by
    rw [List.all_eq_true]
    exact ⟨fun g x m => of_decide_eq_true (g x m), fun g x m => decide_eq_true (g x m)⟩
  have a2 : (e.flPorts.all fun q => decide (q.2 = .done)) = true ↔ ∀ x ∈ e.flPorts, x.2 = .done := by
    rw [List.all_eq_true]
    exact ⟨fun g x m => of_decide_eq_true (g x m), fun g x m => decide_eq_true (g x m)⟩
  rw [e1]
  unfold FlushHeldOrAnswered
  by_cases hc : ∀ x ∈ e.flPorts, x.2 ≠ .uncut ∧ x.2 ≠ .cut
  · rw [if_pos hc, if_pos (a1.mpr hc)]
    unfold completeFlush
    cases e.failure with
    | some f => exact answered_complete ..
    | none =>
      dsimp only
      by_cases c : ∀ x ∈ e.flPorts, x.2 = .done
      · rw [if_pos c, if_pos (a2.mpr c)]; exact answered_complete ..
      · rw [if_neg c, if_neg (fun x => c (a2.mp x))]; exact answered_complete ..
  · rw [if_neg hc, if_neg (fun x => hc (a1.mp x))]
    exact h

theorem entryOf_modEntry {t : Tag} {e : Entry} {s : State} (h : entryOf t s = some e) (f : Entry → Entry) :
    entryOf t (modEntry t f s) = some (f e) := by
  unfold modEntry; rw [entryOf_setEntry_self, h]; rfl

theorem withdrawGrants_pieceOf (q : Grant → Bool) (s : State) (j : PieceId) :
    pieceOf j (withdrawGrants q s) = pieceOf j s := by
  unfold withdrawGrants
  generalize s.ulc.grants.filter q = l
  induction l generalizing s with
  | nil => rfl
  | cons a l ih => rw [List.foldl_cons, ih]; rfl

theorem complete_pieceOf (t : Tag) (o : ReqOutcome) (c : Cause) (r d : Nat) (s : State) (j : PieceId) :
    pieceOf j (complete t o c r d s) = pieceOf j s := by
  show pieceOf j (withdrawGrants _ (sendCmpl t o c r d s)) = _
  rw [withdrawGrants_pieceOf]; rfl

theorem tryComplete_pieceOf (t : Tag) (s : State) (j : PieceId) : pieceOf j (tryComplete t s) = pieceOf j s := by
  unfold tryComplete completeData completeFlush
  repeat' split
  all_goals first | rfl | exact complete_pieceOf ..

theorem trimActive_entryOf (t t' : Tag) (s : State) : entryOf t' (trimActive t s) = entryOf t' s := by
  unfold trimActive
  split
  · rfl
  · split
    · rfl
    · rfl

/-! ### Dropping pieces -/

theorem dropPiece_other {t : Tag} {id j : PieceId} (h : j ≠ id) (s : State) :
    pieceOf j (dropPiece t id s) = pieceOf j s := by
  unfold dropPiece
  split
  · rfl
  · exact detachPiece_other h s

theorem dropPiece_self (t : Tag) (id : PieceId) (s : State) : pieceOf id (dropPiece t id s) = none := by
  unfold dropPiece
  split
  · assumption
  · rename_i q h
    exact (detachPiece_gone h).1

theorem dropList_spec (t : Tag) (l : List PieceId) (hl : l.Nodup) (s : State) :
    (∀ j, pieceOf j (l.foldl (fun s id => dropPiece t id s) s) = if j ∈ l then none else pieceOf j s) ∧
    ∀ e, entryOf t s = some e → e.kind ≠ .flush → (∀ id ∈ l, (pieceOf id s).isSome) →
      entryOf t (l.foldl (fun s id => dropPiece t id s) s) = some { e with notEnded := e.notEnded - l.length } := by
  induction l generalizing s with
  | nil => exact ⟨fun j => by simp, fun e h _ _ => by simpa using h⟩
  | cons a l ih =>
    obtain ⟨ha, hl'⟩ := List.nodup_cons.mp hl
    obtain ⟨h1, h2⟩ := ih hl' (dropPiece t a s)
    rw [List.foldl_cons]
    refine ⟨fun j => ?_, fun e he hk hp => ?_⟩
    · rw [h1 j]
      by_cases c : j = a
      · subst c; rw [if_neg ha, if_pos (List.mem_cons_self ..)]; exact dropPiece_self t j s
      · rw [dropPiece_other c]
        simp [c]
    · have hsome := hp a (List.mem_cons_self ..)
      have he' : entryOf t (dropPiece t a s) = some { e with notEnded := e.notEnded - 1 } := by
        unfold dropPiece
        cases hq : pieceOf a s with
        | none => rw [hq] at hsome; exact absurd hsome (by simp)
        | some q =>
          dsimp only
          have := entryOf_modEntry (s := detachPiece a s) (by rw [detachPiece_entryOf]; exact he)
            (fun e => onePieceLess (if e.kind = .flush then markPort q.port .dropped e else e))
          rw [this, if_neg hk]
          rfl
      have := h2 _ he' hk (fun id hid => by
        rw [dropPiece_other (show id ≠ a from fun c => ha (by rw [← c]; exact hid))]; exact hp id (List.mem_cons_of_mem _ hid))
      rw [this]
      simp only [List.length_cons]
      congr 2
      omega

theorem piecesWhere_nodup (q : Piece → Bool) (s : State) : (piecesWhere q s).Nodup := by
  unfold piecesWhere allPieces
  exact (List.nodup_finRange 48).filter _

theorem mem_piecesWhere (q : Piece → Bool) (s : State) (j : PieceId) :
    j ∈ piecesWhere q s ↔ ∃ p, pieceOf j s = some p ∧ q p = true := by
  unfold piecesWhere allPieces
  rw [List.mem_filter]
  cases h : pieceOf j s <;> simp

/-- R35, R44, R48: the pieces of a request that a test names are gone, and its count falls by their number. -/
theorem dropPieces_spec (t : Tag) (q : Piece → Bool) (s : State) :
    (∀ j p, pieceOf j (dropPieces t q s) = some p → pieceOf j s = some p ∧ (p.owner = .tag t → q p = false)) ∧
    (∀ j p, pieceOf j s = some p → (p.owner = .tag t → q p = false) → pieceOf j (dropPieces t q s) = some p) ∧
    ∀ e, entryOf t s = some e → e.kind ≠ .flush →
      entryOf t (dropPieces t q s) = some { e with
        notEnded := e.notEnded - (piecesWhere (fun p => p.owner = .tag t && q p) s).length } := by
  obtain ⟨h1, h2⟩ := dropList_spec t _ (piecesWhere_nodup (fun p => p.owner = .tag t && q p) s) s
  unfold dropPieces
  refine ⟨fun j p hp => ?_, fun j p hp hq => ?_, fun e he hk => h2 e he hk fun id hid => ?_⟩
  · rw [h1] at hp
    split at hp
    · exact absurd hp (by simp)
    · rename_i hn
      refine ⟨hp, fun ho => ?_⟩
      cases c : q p with
      | false => rfl
      | true => exact absurd ((mem_piecesWhere _ s j).mpr ⟨p, hp, by simp [ho, c]⟩) hn
  · rw [h1, if_neg]
    · exact hp
    · intro hm
      obtain ⟨p', hp', hq'⟩ := (mem_piecesWhere _ s j).mp hm
      rw [hp] at hp'
      obtain rfl := Option.some.inj hp'
      simp only [Bool.and_eq_true, decide_eq_true_eq] at hq'
      rw [hq hq'.1] at hq'
      exact absurd hq'.2 (by simp)
  · obtain ⟨p, hp, _⟩ := (mem_piecesWhere _ s id).mp hid
    rw [hp]; rfl

/-! ### What a dropped piece held -/

/-- R65: a withdrawn set only grows as grants are withdrawn. -/
theorem withdrawGrant_mono {g : Grant} {t : Tag} {i : Nat} {s : State} (h : i ∈ s.ulc.withdrawn[t]) :
    i ∈ (withdrawGrant g s).ulc.withdrawn[t] := by
  show i ∈ (s.ulc.withdrawn.set g.tag _)[t]
  by_cases c : g.tag.val = t.val
  · have e : g.tag = t := Fin.ext c
    subst e
    have k : i ∈ s.ulc.withdrawn[g.tag.val] := h
    simp [k]
  · rw [Fin.getElem_fin, Vector.getElem_set_ne (h := c)]
    exact h

/-- R65: the offsets of a grant that are not filled join the withdrawn set of its tag. -/
theorem withdrawGrant_joins {g : Grant} {i : Nat} {s : State} (h : i < g.count) (hf : i ∉ filledOf g s) :
    g.first + i ∈ (withdrawGrant g s).ulc.withdrawn[g.tag] := by
  show _ ∈ (s.ulc.withdrawn.set g.tag _)[g.tag]
  by_cases c : g.first + i ∈ s.ulc.withdrawn[g.tag.val]
  · simp [c]
  · simp [c, missingOf, h, hf]

theorem withdrawGrants_mono {q : Grant → Bool} {t : Tag} {i : Nat} {s : State} (h : i ∈ s.ulc.withdrawn[t]) :
    i ∈ (withdrawGrants q s).ulc.withdrawn[t] := by
  unfold withdrawGrants
  generalize s.ulc.grants.filter q = l
  induction l generalizing s with
  | nil => exact h
  | cons a l ih => exact ih (withdrawGrant_mono h)

theorem filledOf_withdrawGrant (g g' : Grant) (s : State) : filledOf g (withdrawGrant g' s) = filledOf g s := rfl

theorem withdrawGrants_joins {q : Grant → Bool} {g : Grant} {i : Nat} {s : State} (hg : g ∈ s.ulc.grants)
    (hq : q g = true) (h : i < g.count) (hf : i ∉ filledOf g s) :
    g.first + i ∈ (withdrawGrants q s).ulc.withdrawn[g.tag] := by
  have hm : g ∈ s.ulc.grants.filter q := List.mem_filter.mpr ⟨hg, hq⟩
  unfold withdrawGrants
  generalize s.ulc.grants.filter q = l at hm
  clear hg
  induction l generalizing s with
  | nil => simp at hm
  | cons a l ih =>
    rw [List.foldl_cons]
    rcases List.mem_cons.mp hm with e | e
    · subst e
      have k := withdrawGrant_joins h hf
      generalize withdrawGrant g s = v at k
      clear ih hm hf
      induction l generalizing v with
      | nil => exact k
      | cons b l ih => exact ih _ (withdrawGrant_mono k)
    · exact ih hf e

theorem detachPiece_withdrawn {id : PieceId} {q : Piece} {s : State} (h : pieceOf id s = some q) :
    (detachPiece id s).ulc.withdrawn =
      (withdrawGrants (fun g => decide (g.target = .piece id)) s).ulc.withdrawn := by
  unfold detachPiece
  rw [h]
  dsimp only
  generalize hw : withdrawFrames _ _ = w
  obtain ⟨x, _, _, _, e⟩ := leaveQueues_eq id w
  rw [e, ← hw]
  rfl

/-- R176: of the frames of pieces still to be sent, those of the piece alone are withdrawn. -/
theorem detachPiece_frames {id j : PieceId} {t : Tag} {n : Nat} {b : Block} {s : State} (hs : (pieceOf id s).isSome) :
    .readData j t n b ∈ (detachPiece id s).ulc.tx ↔ .readData j t n b ∈ s.ulc.tx ∧ j ≠ id := by
  obtain ⟨q, hq⟩ := Option.isSome_iff_exists.mp hs
  obtain ⟨u, x, _, h2, _, _, _, e⟩ := detachPiece_eq hq
  rw [e]
  have k : .readData j t n b ∈ u.tx ↔ .readData j t n b ∈ u.tx.filter notGrant := by simp [notGrant]
  show .readData j t n b ∈ u.tx ↔ _
  rw [k, h2]
  simp [notGrant]

/-- R35, R44, R65, R176: what a dropped piece held is gone with it. -/
theorem dropPiece_dropped {t : Tag} {id : PieceId} {q : Piece} {s : State} (h : pieceOf id s = some q) :
    PieceGone id q (dropPiece t id s) ∧ GrantsWithdrawn id q s (dropPiece t id s) ∧
      ∀ t' n b, .readData id t' n b ∉ (dropPiece t id s).ulc.tx := by
  have e : ∃ f, dropPiece t id s = modEntry t f (detachPiece id s) := by unfold dropPiece; rw [h]; exact ⟨_, rfl⟩
  obtain ⟨f, e⟩ := e
  rw [e]
  refine ⟨(detachPiece_gone h).shrinks (.modEntry ..), fun g hg ht i hi hf => ?_, fun t' n b hm => ?_⟩
  · show _ ∈ (detachPiece id s).ulc.withdrawn[g.tag]
    rw [detachPiece_withdrawn h]
    refine withdrawGrants_joins hg (by simpa using ht) hi ?_
    unfold filledOf
    rw [ht]
    dsimp only
    rw [h]
    exact hf
  · exact ((detachPiece_frames (by rw [h]; rfl)).mp hm).2 rfl

/-- R65, R176: a drop keeps the withdrawn sets, and adds no frame of a piece and no grant. -/
theorem dropPiece_keeps (t : Tag) (id : PieceId) (s : State) :
    (∀ (t' : Tag) (i : Nat), i ∈ s.ulc.withdrawn[t'] → i ∈ (dropPiece t id s).ulc.withdrawn[t']) ∧
    (∀ j t' n b, .readData j t' n b ∈ (dropPiece t id s).ulc.tx → .readData j t' n b ∈ s.ulc.tx) ∧
    ∀ g, g ∈ s.ulc.grants → g.target ≠ .piece id → g ∈ (dropPiece t id s).ulc.grants := by
  unfold dropPiece
  split
  · exact ⟨fun _ _ h => h, fun _ _ _ _ h => h, fun _ h _ => h⟩
  · rename_i q h
    refine ⟨fun t' i hi => ?_, fun j t' n b hm => ?_, fun g hg ht => ?_⟩
    · show _ ∈ (detachPiece id s).ulc.withdrawn[t']
      rw [detachPiece_withdrawn h]
      exact withdrawGrants_mono hi
    · exact ((detachPiece_frames (by rw [h]; rfl)).mp hm).1
    · obtain ⟨u, x, h1, _, _, _, _, e⟩ := detachPiece_eq h
      show g ∈ (detachPiece id s).ulc.grants
      rw [e]
      show g ∈ u.grants
      rw [h1]
      exact List.mem_filter.mpr ⟨hg, by simpa using ht⟩

theorem dropList_dropped (t : Tag) (l : List PieceId) (hl : l.Nodup) (s : State) (j : PieceId) (q : Piece)
    (hj : j ∈ l) (h : pieceOf j s = some q) :
    let w := l.foldl (fun s id => dropPiece t id s) s
    PieceGone j q w ∧ GrantsWithdrawn j q s w ∧ ∀ t' n b, .readData j t' n b ∉ w.ulc.tx := by
  induction l generalizing s with
  | nil => simp at hj
  | cons a l ih =>
    obtain ⟨ha, hl'⟩ := List.nodup_cons.mp hl
    dsimp only
    rw [List.foldl_cons]
    by_cases c : j = a
    · subst c
      obtain ⟨g1, g2, g3⟩ := dropPiece_dropped (t := t) h
      generalize dropPiece t j s = v at g1 g2 g3 ⊢
      clear ih hl hl' hj ha
      induction l generalizing v with
      | nil => exact ⟨g1, g2, g3⟩
      | cons b l ih =>
        obtain ⟨k1, k2, _⟩ := dropPiece_keeps t b v
        exact ih _ (g1.shrinks (.dropPiece ..)) (fun g hg ht i hi hf => k1 _ _ (g2 g hg ht i hi hf))
          (fun t' n b hm => g3 t' n b (k2 _ _ _ _ hm))
    · have hm : j ∈ l := (List.mem_cons.mp hj).resolve_left c
      obtain ⟨k1, k2, k3⟩ := ih hl' (dropPiece t a s) hm (by rw [dropPiece_other c]; exact h)
      obtain ⟨_, _, m⟩ := dropPiece_keeps t a s
      exact ⟨k1, fun g hg ht => k2 g (m g hg (by rw [ht]; simpa using c)) ht, k3⟩

/-- R35, R44, R48: the pieces of a request that a test names have ended with what they held. -/
theorem dropPieces_dropped (t : Tag) (q : Piece → Bool) (s : State) : PiecesDropped t none q s (dropPieces t q s) :=
  fun j _ _ _ hr ho hq => dropList_dropped t _ (piecesWhere_nodup _ s) s j _
    ((mem_piecesWhere _ s j).mpr ⟨_, hr, by simp [ho, hq]⟩) hr

/-- R35, R44, R48: its other pieces run on. -/
theorem dropPieces_runOn (t : Tag) (q : Piece → Bool) (s : State) : PiecesRunOn t none q s (dropPieces t q s) :=
  fun j r _ hr _ hq => .inl ((dropPieces_spec t q s).2.1 j r hr fun _ => hq)

/-! ### The outcome of a piece at its request -/

theorem resolved_notFlush {e : Entry} (h : Resolved e) : e.kind ≠ .flush := by
  intro c
  have := h.1
  rw [c] at this
  exact absurd this (by decide)

/-- R32: DONE. -/
theorem dataOutcome_done (t : Tag) (e : Entry) (q : Piece) (s : State) (hr : Resolved e) :
    PieceDone t e q (dataOutcome t e q .done s) :=
  tryComplete_data (entryOf_setEntry_self ..) hr

/-- R32: DROPPED. -/
theorem dataOutcome_dropped (t : Tag) (e : Entry) (q : Piece) (s : State) (hr : Resolved e) :
    HeldOrAnswered t { e with notEnded := e.notEnded - 1 } (dataOutcome t e q .dropped s) :=
  tryComplete_data (entryOf_setEntry_self ..) hr

theorem lowersFailure_eq (e : Entry) (f : Nat) : lowersFailure e f = e.failure.all fun x => decide (f < x.1) := by
  unfold lowersFailure
  cases e.failure <;> rfl

theorem countP_eq_length_filter' (l : List PieceId) (p : PieceId → Bool) : l.countP p = (l.filter p).length :=
  List.countP_eq_length_filter

/-- R35: the pieces that draining drops once the failing piece is gone. -/
theorem drained_eq {t : Tag} {id : PieceId} {u s : State} (f : Nat) (h1 : pieceOf id s = none)
    (h2 : ∀ j, j ≠ id → pieceOf j s = pieceOf j u) :
    (piecesWhere (fun p => p.owner = .tag t && drainedBy f p) s).length = drained t id f u := by
  unfold piecesWhere drained
  rw [List.countP_eq_length_filter]
  congr 1
  apply List.filter_congr
  intro j _
  by_cases c : j = id
  · subst c; simp [h1]
  · simp [c, h2 j c]

/-- R34 to R36, R39: FAILED. -/
theorem dataOutcome_failed {t : Tag} {e : Entry} {q : Piece} {id : PieceId} {u s : State} (k : Nat) (c : Cause)
    (hr : Resolved e) (h1 : pieceOf id s = none) (h2 : ∀ j, j ≠ id → pieceOf j s = pieceOf j u) :
    FailureAtRequest t e id (q.offset + k) c u (dataOutcome t e q (.failed k c) s) := by
  unfold FailureAtRequest dataOutcome
  dsimp only
  have hl : lowersFailure (onePieceLess e) (q.offset + k) = e.failure.all fun x => decide (q.offset + k < x.1) :=
    lowersFailure_eq ..
  rw [hl]
  by_cases hc : (e.failure.all fun x => decide (q.offset + k < x.1)) = true
  · rw [if_pos hc, if_pos hc]
    generalize hv : setEntry t (some { onePieceLess e with failure := some (q.offset + k, c), state := .draining }) s = v
    have hve : entryOf t v = some { onePieceLess e with failure := some (q.offset + k, c), state := .draining } := by
      rw [← hv]; exact entryOf_setEntry_self ..
    have hvp : ∀ j, pieceOf j v = pieceOf j s := by intro j; rw [← hv]; rfl
    obtain ⟨d1, d2, d3⟩ := dropPieces_spec t (drainedBy (q.offset + k)) v
    have hd := d3 _ hve (show e.kind ≠ .flush from resolved_notFlush hr)
    rw [drained_eq (u := u) (q.offset + k) ((hvp id).trans h1) (fun j hj => (hvp j).trans (h2 j hj))] at hd
    generalize dropPieces t (drainedBy (q.offset + k)) v = w at d1 hd ⊢
    have ht : entryOf t (trimActive t w) = some { onePieceLess e with
        failure := some (q.offset + k, c), state := .draining
        notEnded := (onePieceLess e).notEnded - drained t id (q.offset + k) u } := by
      rw [trimActive_entryOf]; exact hd
    have hwp : ∀ j, pieceOf j (trimActive t w) = pieceOf j w := by
      intro j; unfold trimActive; split
      · rfl
      · split
        · rfl
        · rfl
    generalize trimActive t w = y at ht hwp ⊢
    refine ⟨tryComplete_data ht ⟨hr.1, .inr rfl⟩, fun j p hp ho => ?_⟩
    have hy : pieceOf j y = some p := (tryComplete_pieceOf t y j).symm.trans hp
    exact (d1 j p ((hwp j).symm.trans hy)).2 ho
  · rw [if_neg hc, if_neg hc]
    exact tryComplete_data (entryOf_setEntry_self ..) hr

end Sys2Proof.Machine
end

