-- ==== Sys2Proof/WellFormed.lean ====
section
/-! DEFINITION. The well-formed commands. Every operand but the raw frame of BAD_FRAME is bounded by its type; a
BAD_FRAME carries a frame that no other row spells. -/

namespace Sys2Proof

open Machine in
/-- A frame for the row BAD_FRAME: at least a kind byte and a check word, and not one of the frames that the other
rows stand for. It fails a test of R174, or is a REQ whose kind code names no kind (R26), or is a PORT request whose
action is neither OFFLINE nor ONLINE (R92). -/
def badFrameWellFormed (frame : List Byte) : Bool :=
  3 ≤ frame.length &&
    match hostMessage frame with
    | none => true
    | some (.req r) =>
      match kindOf r.code with
      | none => true
      | some .port => r.p1 ≠ 0 && r.p1 ≠ 1
      | some _ => false
    | some _ => false

/-- The commands that stand for one event of the part. -/
def Instr.wellFormed : Instr → Bool
  | .badFrame frame => badFrameWellFormed frame
  | .read .. | .write .. | .verify .. | .flush .. | .identify .. | .status .. | .peek .. | .setup ..
  | .keepalive .. | .unfence .. | .mapOpen .. | .mapStage .. | .mapCommit .. | .mapDiscard ..
  | .mapRead .. | .mapSave .. | .lock .. | .unlock .. | .move .. | .portOffline .. | .portOnline ..
  | .restart .. | .hostData .. | .cancel .. | .linkReset | .readDataDeparts | .mgmtDataDeparts
  | .restartCmplDeparts | .grantTimeExpiry .. | .pieceTimerExpiry .. | .probeTimerExpiry ..
  | .fullExpiry | .firstExpiry | .secondExpiry | .mediaData .. | .mediaStsOk .. | .mediaStsError ..
  | .mediaStsNotReady .. | .mediaStsInquiry .. | .presentnAsserted .. | .presentnReleased ..
  | .wpnAsserted | .wpnReleased | .resetnAsserted | .resetnReleased | .powerOn | .powerLoss
  | .storeWriteEndGood | .storeWriteEndBad | .startUpReadEnd | .intakeHeadResolution | .cutEvent
  | .flushResolution | .flPieceCut | .slotGrant | .mguTakesHead | .blockingSetEmpties | .cpPieceCut
  | .moveSwitch | .frameDeparture => true

end Sys2Proof
end

