-- ==== Sys2Proof/Tests/Slice0.lean ====
section
/-! SUPPORT. Tests on small states: what the check of well-formedness refuses, the manual's worked examples, and for each
statement that has hypotheses states that meet them. -/

open Sys2Proof Sys2Proof.Machine

set_option Elab.async false

namespace Sys2Proof.Tests

/-! ### Small states -/

/-- The part after a command. -/
def go (s : State) (c : Instr) : State :=
  match exec c s with
  | .next t => t
  | _ => s

/-- The part after some commands. -/
def after (s : State) (cs : List Instr) : State := cs.foldl go s

/-- Extent [l, l + n) of unit `u` on port `p` from `ps`. -/
def ext (u p : Byte) (l n ps : Nat) (verify : Bool := false) (policy : BitVec 2 := 0) : Extent :=
  ⟨1, u, p, policy, verify, false, BitVec.ofNat 32 l, BitVec.ofNat 32 n, BitVec.ofNat 32 ps⟩

def mapOf (es : List Extent) : ExtMap := ⟨⟨(es ++ List.replicate 64 Extent.empty).take 64⟩, by simp⟩

/-- A part in RUN with a map, every port READY and no change flag set. -/
def runs (es : List Extent) : State :=
  let s := State.reset.setXmp { State.reset.xmp with active := mapOf es }
  let s := s.setPorts (mapVec (fun x => { x with state := .ready, capacity := 1000 }) s.ports)
  let s := s.setMst { s.mst with reading := false, storeState := .identity }
  let s := s.setPins { s.pins with presentLow := Vector.replicate 4 true }
  (clearFlags s).setSvm { s.svm with partState := .run }

/-- One extent, U0 [0, 100) on MP0 from 0. -/
def one : State := runs [ext 0 0 0 100 0]

def inMode (m : Mode) (timer : Timer) (s : State) : State :=
  (s.setMgu { s.mgu with settings := ⟨5, m, 3⟩ }).setSvm { s.svm with timer := timer }

def inPart (p : PartState) (s : State) : State := s.setSvm { s.svm with partState := p }

def locked (s : State) : State := s.setMst { s.mst with lock := true }

def blockOf (b : Byte) : Block := Vector.replicate 512 b

/-- DATA frames for offsets `first` to `first + n - 1`. -/
def dataFrames (t : Tag) (first n : Nat) : List Instr :=
  (List.range n).map fun i => .hostData t (BitVec.ofNat 16 (first + i)) (blockOf 7)

/-- Every host frame of `n` departures. -/
def readFrames (n : Nat) : List Instr := List.replicate n .readDataDeparts

/-- Whether the last completion handed over says this. -/
def tells (s : State) (t : Tag) (o : ReqOutcome) (c : Cause) (remaining detail : Nat) : Bool :=
  match (s.ulc.tx.filter fun f => match f with
    | .cmpl _ _ => true
    | _ => false).getLast? with
  | some (.cmpl x _) => x.tag = t && x.outcome = o && x.cause = c && x.remaining = remaining && x.detail.toNat = detail
  | _ => false

/-- The completions handed over: tag, outcome and cause. -/
def told (s : State) : List (Tag × ReqOutcome × Cause) :=
  s.ulc.tx.filterMap fun f => match f with
    | .cmpl x _ => some (x.tag, x.outcome, x.cause)
    | _ => none

/-- The owner and state of each piece record up to `n`. -/
def piecesTo (n : Nat) (s : State) : List (Option (Owner × PieceState)) :=
  (allPieces.take n).map fun j => (pieceOf j s).map fun q => (q.owner, q.state)

theorem standsAfter {s : State} (h : running s = true) : StandsAt s (settle s) := ⟨h, rfl⟩

theorem standsQuiet {s : State} (h : running s = true) (hd : dueStep s = none) : StandsAt s s :=
  ⟨h, by simp [settle, stepBound, drain, hd]⟩

/-- Every part that `runs` builds has no step due. -/
theorem test_quiet : running one = true ∧ dueStep one = none := by decide +kernel

/-! ### Well-formedness, records and frames -/

/-- R174: a frame whose check word is wrong is a frame of BAD_FRAME; the right one (a link reset) is not. -/
theorem test_wellFormed_checkWord :
    (Instr.badFrame [4, 0, 0]).wellFormed = true ∧ (Instr.badFrame (messageBytes .reset)).wellFormed = false := by
  decide +kernel

/-- A frame too short for a kind byte and a check word is refused. -/
theorem test_wellFormed_short : (Instr.badFrame [4, 0]).wellFormed = false := by decide +kernel

/-- R26: a REQ with a kind code that names no kind is a frame of BAD_FRAME; a READ is not. -/
theorem test_wellFormed_request :
    (Instr.badFrame (messageBytes (.req ⟨15, 0, 99, 0, 0, 0, 0, 0⟩))).wellFormed = true ∧
    (Instr.badFrame (messageBytes (.req (dataRequest .read 15 0 1 0)))).wellFormed = false := by decide +kernel

/-- R92: a PORT request with action 2 is a frame of BAD_FRAME; PORT ONLINE is not. -/
theorem test_wellFormed_port :
    (Instr.badFrame (messageBytes (.req (paramRequest .port 0 7 0 2 0)))).wellFormed = true ∧
    (Instr.badFrame (messageBytes (.req (paramRequest .port 0 7 0 1 0)))).wellFormed = false := by decide +kernel

/-- R173: the manual's check value, over the bytes 49 to 57. -/
theorem test_checkWord : checkWord [49, 50, 51, 52, 53, 54, 55, 56, 57] = 0x29B1 := by decide +kernel

/-- R127: the factory store is sound and is judged IDENTITY. -/
theorem test_factoryStore : headerGood factoryHeader = true ∧ rowGood factoryRow = true ∧
    judgeStore State.reset.mst = .identity := by decide +kernel

/-- No command is given bits by the table. -/
theorem test_noTableWord : decodeTableWord 8 0 = none := rfl

/-! ### Witnesses: arrivals -/

theorem test_quietPart : State.reset.pending = [] ∧ running State.reset = true ∧ dueStep State.reset = none := by
  decide +kernel

/-- R41, R169: no flag and LAPSE CLEAR, one flag, LAPSE alone, and ATTN while RESETn is held. -/
theorem test_attention :
    let flagged := linkNoted one
    let lapsed := setLapse true one
    attention one = false ∧ attnPin one = false ∧ attention flagged = true ∧ attnPin flagged = true ∧
      attention lapsed = true ∧ attnPin lapsed = true ∧ attnPin (go flagged .resetnAsserted) = false ∧
      attnPin (go flagged .powerLoss) = false ∧ attnPin (after flagged [.resetnAsserted, .resetnReleased]) = true := by
  decide +kernel

/-- RESETn held, with a command and a line event. -/
theorem test_held : (go State.reset .resetnAsserted).pins.resetLow = true ∧ movesLine .linkReset = false ∧
    movesLine .wpnAsserted = true := by decide +kernel

/-- R27: unit 3, the highest last block, count codes 1 and 0 (256 blocks), tag 15 FREE. -/
theorem test_joinsIntake : StandsAt one one ∧ entryOf 15 one = none ∧ (3 : Byte).toNat ≤ 3 ∧
    (4294967295 : Word).toNat + (if (1 : Byte) = 0 then 256 else (1 : Byte).toNat) - 1 ≤ 4294967295 ∧
    (4294967040 : Word).toNat + (if (0 : Byte) = 0 then 256 else (0 : Byte).toNat) - 1 ≤ 4294967295 :=
  ⟨standsQuiet (by decide +kernel) (by decide +kernel), by decide +kernel⟩

/-- R159: a request waits while the part is LOADING, and while MGU is not IDLE. -/
theorem test_joinsManagement :
    (StandsAt State.reset State.reset ∧ entryOf 0 State.reset = none ∧ State.reset.svm.partState = .loading) ∧
    running (go one (.identify 0 7)) = true ∧ (settle (go one (.identify 0 7))).mgu.exec ≠ .idle ∧
    entryOf 1 (settle (go one (.identify 0 7))) = none ∧ kindOf (kindCode .unfence) = some .unfence :=
  ⟨⟨standsQuiet (by decide +kernel) (by decide +kernel), by decide +kernel⟩, by decide +kernel⟩

/-- R46: a FLUSH waits for the WRITE before it. -/
theorem test_flushWaits :
    let s := go one (.write 2 0 1 0)
    running s = true ∧ entryOf 3 (settle s) = none ∧
      (entryOf 3 (settle (go s (.flush 3 0)))).map (·.waitSet) = some [2] := by decide +kernel

/-- R25, R26: each arrival check at the border of what it refuses. -/
theorem test_arrivals : StandsAt one one ∧ entryOf 15 one = none ∧
    tells (go one (.read 15 4 1 0)) 15 .refused .badUnit 1 0 ∧
    tells (go one (.identify 15 8)) 15 .refused .badUnit 0 0 ∧
    tells (go one (.flush 15 7)) 15 .refused .badKind 0 0 ∧
    tells (go one (.identify 15 3)) 15 .refused .badKind 0 0 ∧
    tells (go one (.verify 15 3 2 4294967295)) 15 .refused .badParam 2 0 ∧
    tells (go one (.write 15 3 0 4294967041)) 15 .refused .badParam 256 0 :=
  ⟨standsQuiet (by decide +kernel) (by decide +kernel), by decide +kernel⟩

/-- R25: a request under a busy tag. -/
theorem test_busyTag :
    let s := go one (.read 2 0 1 0)
    running s = true ∧ (entryOf 2 (settle s)).isSome ∧ (go s (.read 2 0 1 0)).mgu.flags.link = true := by
  decide +kernel

/-! ### Witnesses: supervision -/

/-- R147: a restart in FULL and in SECOND, and no effect with the mode OFF and out of RUN. -/
theorem test_keepaliveRestarts :
    let a := inMode .timeout .full one
    let b := inMode .window .second one
    StandsAt a a ∧ a.svm.timer = .full ∧ StandsAt b b ∧ b.svm.timer = .second ∧ entryOf 0 a = none ∧
      entryOf 0 b = none ∧ a.svm.partState = .run ∧ b.svm.partState = .run :=
  ⟨standsQuiet (by decide +kernel) (by decide +kernel), by decide +kernel,
    standsQuiet (by decide +kernel) (by decide +kernel), by decide +kernel⟩

theorem test_keepaliveIgnored :
    let a := inPart .bare one
    StandsAt a a ∧ a.svm.partState ≠ .run ∧ StandsAt one one ∧ one.mgu.settings.mode = .off :=
  ⟨standsQuiet (by decide +kernel) (by decide +kernel), by decide +kernel,
    standsQuiet (by decide +kernel) (by decide +kernel), by decide +kernel⟩

/-- R147, R146: a keepalive in FIRST is early; FIRST expires into SECOND; the other timers do not run there. -/
theorem test_firstHalf :
    let a := inMode .window .first one
    StandsAt a a ∧ SupervisionSound a ∧ a.svm.timer = .first ∧ entryOf 0 a = none ∧ a.svm.timer ≠ .full ∧
      a.svm.timer ≠ .second ∧ (go a .firstExpiry).svm.timer = .second ∧ one.svm.timer ≠ .first :=
  ⟨standsQuiet (by decide +kernel) (by decide +kernel), by unfold SupervisionSound; decide +kernel, by decide +kernel⟩

/-- R148: the four ways to fail, at a part with LAPSE CLEAR and at one with LAPSE SET. -/
theorem test_failures :
    let a := inMode .timeout .full one
    let b := setLapse true (inMode .window .second one)
    StandsAt a a ∧ SupervisionSound a ∧ FailsSupervision .fullExpiry a ∧ StandsAt b b ∧ SupervisionSound b ∧
      FailsSupervision .secondExpiry b ∧ a.svm.partState = .run ∧ b.svm.partState = .run ∧
      (go a .fullExpiry).svm.lapse = true ∧ (go b .secondExpiry).svm.partState = .fenced :=
  ⟨standsQuiet (by decide +kernel) (by decide +kernel), by unfold SupervisionSound; decide +kernel, rfl,
    standsQuiet (by decide +kernel) (by decide +kernel), by unfold SupervisionSound; decide +kernel, rfl,
    by decide +kernel⟩

theorem test_failuresAsked :
    let a := inMode .window .first one
    FailsSupervision (.keepalive 15 7) a ∧ FailsSupervision (.setup 15 7 7 0 3) a ∧ a.mgu.settings.mode ≠ .off :=
  ⟨⟨rfl, by decide +kernel, rfl⟩, ⟨rfl, by unfold TakenAtOnce; decide +kernel, ⟨7, .off, 3⟩, ⟨rfl, rfl, rfl⟩, .inl (by decide)⟩,
    by decide⟩

/-- R150: code 8 names no settings, code 7 does; a SETUP of a running supervision that keeps mode and period is taken. -/
theorem test_setup :
    let a := inMode .window .second one
    StandsAt a a ∧ SupervisionSound a ∧ TakenAtOnce 0 a ∧ (∀ set, ¬NamesSettings 8 0 0 set) ∧
      NamesSettings 7 2 3 ⟨7, .window, 3⟩ ∧ NamesSettings 7 2 7 ⟨7, .window, 7⟩ ∧
      tells (go a (.setup 0 7 8 0 0)) 0 .refused .badParam 0 0 ∧
      tells (go a (.setup 0 7 7 2 3)) 0 .good .none 0 0 ∧
      tells (go a (.setup 0 7 7 2 7)) 0 .refused .supervised 0 0 :=
  ⟨standsQuiet (by decide +kernel) (by decide +kernel), by unfold SupervisionSound; decide +kernel,
    by unfold TakenAtOnce; decide +kernel, fun set h => by have := set.timeoutCode.isLt; have := h.1; simp at this; omega,
    ⟨rfl, rfl, rfl⟩, ⟨rfl, rfl, rfl⟩, by decide +kernel⟩

/-- R155: UNFENCE with PIN and with SUPERVISION present. -/
theorem test_unfence :
    let a := go one .wpnAsserted
    let b := go (setLapse true (inMode .timeout .full one)) .fullExpiry
    StandsAt a a ∧ SupervisionSound a ∧ TakenAtOnce 3 a ∧ a.svm.partState = .fenced ∧
      StandsAt b b ∧ SupervisionSound b ∧ TakenAtOnce 3 b ∧ b.svm.causes = ⟨true, false⟩ ∧
      tells (go a (.unfence 3 7)) 3 .good .none 0 1 ∧ (go b (.unfence 3 7)).svm.partState = .run :=
  ⟨standsQuiet (by decide +kernel) (by decide +kernel), by unfold SupervisionSound; decide +kernel,
    by unfold TakenAtOnce; decide +kernel, by decide +kernel,
    standsQuiet (by decide +kernel) (by decide +kernel), by unfold SupervisionSound; decide +kernel,
    by unfold TakenAtOnce; decide +kernel, by decide +kernel⟩

/-! ### Witnesses: the map and the store -/

/-- R116, R124: lock set and clear; staging OPEN and CLOSED. -/
theorem test_mapOpen :
    StandsAt one one ∧ TakenAtOnce 0 one ∧ one.mst.lock = false ∧ one.xmp.stagingOpen = false ∧
      StandsAt (locked one) (locked one) ∧ TakenAtOnce 0 (locked one) ∧ (locked one).mst.lock = true ∧
      (go one (.mapOpen 0 7)).xmp.stagingOpen = true ∧
      tells (go one (.mapOpen 0 7)) 0 .good .none 0 1 ∧
      (after one [.mapOpen 0 7, .mapDiscard 0 7]).xmp.stagingOpen = false :=
  ⟨standsQuiet (by decide +kernel) (by decide +kernel), by unfold TakenAtOnce; decide +kernel, by decide +kernel,
    by decide +kernel, standsQuiet (by decide +kernel) (by decide +kernel), by unfold TakenAtOnce; decide +kernel,
    by decide +kernel⟩

/-- R117: windows at their borders: [0, 64) and [63, 64) hold; [63, 65), a count of 0 and a first index of 64 do not. -/
theorem test_mapStage :
    let a := go one (.mapOpen 0 7)
    StandsAt a a ∧ TakenAtOnce 1 a ∧ a.mst.lock = false ∧ a.xmp.stagingOpen = true ∧
      (go a (.mapStage 1 7 0 64)).mgu.exec = .dataIn ∧ (go a (.mapStage 1 7 63 1)).mgu.exec = .dataIn ∧
      tells (go a (.mapStage 1 7 63 2)) 1 .refused .badParam 0 0 ∧
      tells (go a (.mapStage 1 7 0 0)) 1 .refused .badParam 0 0 ∧
      tells (go a (.mapStage 1 7 64 1)) 1 .refused .badParam 0 0 ∧
      tells (go one (.mapStage 1 7 0 1)) 1 .refused .notOpen 0 0 ∧
      tells (go (locked one) (.mapStage 1 7 0 1)) 1 .refused .locked 0 0 :=
  ⟨standsQuiet (by decide +kernel) (by decide +kernel), by unfold TakenAtOnce; decide +kernel, by decide +kernel⟩

/-- A record's block, and the records that the manual's example stages (R121). -/
def staged (es : List Extent) : State :=
  (inPart .bare (runs [])).setXmp { (runs []).xmp with staging := mapOf es, stagingOpen := true }

def exampleRecords (last : Nat) : List Extent :=
  [ext 0 0 0 1000 0, ext 0 1 1000 500 0, ext 1 1 0 600 last, Extent.empty, ext 2 2 0 100 0]

/-- R121: the manual's example: the first bad index is 2, and 4 once record 2 lies from 500. -/
theorem test_firstBadIndex : firstBadIndex (mapOf (exampleRecords 400)) = some 2 ∧
    firstBadIndex (mapOf (exampleRecords 500)) = some 4 ∧ firstBadIndex (mapOf []) = none := by decide +kernel

/-- R120: the refusals of MAP COMMIT, each at a state that the earlier checks pass. -/
theorem test_commitRefused :
    let a := staged (exampleRecords 400)
    StandsAt a a ∧ SupervisionSound a ∧ TakenAtOnce 0 a ∧ firstBadIndex a.xmp.staging = some 2 ∧
      tells (go a (.mapCommit 0 7)) 0 .refused .invalidMap 0 2 ∧
      tells (go (locked a) (.mapCommit 0 7)) 0 .refused .locked 0 0 ∧
      tells (go (go one .wpnAsserted) (.mapCommit 0 7)) 0 .refused .fenced 0 0 ∧
      tells (go one (.mapCommit 0 7)) 0 .refused .notOpen 0 0 ∧
      tells (after one [.move 1 7 0 1 0 500, .mapOpen 0 7, .mapCommit 0 7]) 0 .refused .moveActive 0 0 ∧
      tells (after one [.mapSave 1 7, .mapOpen 0 7, .mapCommit 0 7]) 0 .refused .saveActive 0 0 :=
  ⟨standsQuiet (by decide +kernel) (by decide +kernel), by unfold SupervisionSound; decide +kernel,
    by unfold TakenAtOnce; decide +kernel, by decide +kernel⟩

/-- R122: a commit in BARE, with and without a fence cause, and in RUN. -/
theorem test_commitTaken :
    let a := staged [ext 3 3 4294967295 1 4294967295]
    let b := go a .wpnAsserted
    let c := go one (.mapOpen 0 7)
    StandsAt a a ∧ SupervisionSound a ∧ TakenAtOnce 0 a ∧ firstBadIndex a.xmp.staging = none ∧
      (go a (.mapCommit 0 7)).svm.partState = .run ∧
      StandsAt b b ∧ SupervisionSound b ∧ TakenAtOnce 0 b ∧ b.svm.causes.pin = true ∧
      (go b (.mapCommit 0 7)).svm.partState = .fenced ∧
      StandsAt c c ∧ SupervisionSound c ∧ TakenAtOnce 0 c ∧ firstBadIndex c.xmp.staging = none ∧
      tells (go c (.mapCommit 0 7)) 0 .good .none 0 1 ∧ (go c (.mapCommit 0 7)).xmp.generation = 1 :=
  ⟨standsQuiet (by decide +kernel) (by decide +kernel), by unfold SupervisionSound; decide +kernel,
    by unfold TakenAtOnce; decide +kernel, by decide +kernel, by decide +kernel,
    standsQuiet (by decide +kernel) (by decide +kernel), by unfold SupervisionSound; decide +kernel,
    by unfold TakenAtOnce; decide +kernel, by decide +kernel, by decide +kernel,
    standsQuiet (by decide +kernel) (by decide +kernel), by unfold SupervisionSound; decide +kernel,
    by unfold TakenAtOnce; decide +kernel, by decide +kernel⟩

/-- R125: the three selectors, one that names no table, and the refusals. -/
theorem test_mapRead :
    let a := go one (.mapSave 1 7)
    let b := go one (.mapOpen 1 7)
    StandsAt one one ∧ TakenAtOnce 0 one ∧ StandsAt a a ∧ TakenAtOnce 0 a ∧ StandsAt b b ∧ TakenAtOnce 0 b ∧
      (go one (.mapRead 0 7 0 63 1)).mgu.exec = .dataOut ∧ (go b (.mapRead 0 7 1 0 33)).mgu.exec = .dataOut ∧
      (go one (.mapRead 0 7 2 0 64)).mgu.exec = .dataOut ∧
      tells (go one (.mapRead 0 7 3 0 64)) 0 .refused .badParam 0 0 ∧
      tells (go one (.mapRead 0 7 0 0 65)) 0 .refused .badParam 0 0 ∧
      tells (go one (.mapRead 0 7 1 0 1)) 0 .refused .notOpen 0 0 ∧
      tells (go a (.mapRead 0 7 2 0 1)) 0 .refused .saveActive 0 0 :=
  ⟨standsQuiet (by decide +kernel) (by decide +kernel), by unfold TakenAtOnce; decide +kernel,
    standsQuiet (by decide +kernel) (by decide +kernel), by unfold TakenAtOnce; decide +kernel,
    standsQuiet (by decide +kernel) (by decide +kernel), by unfold TakenAtOnce; decide +kernel, by decide +kernel⟩

/-- R130: a save and its refusals. -/
theorem test_save :
    StandsAt one one ∧ TakenAtOnce 0 one ∧ one.svm.partState = .run ∧ one.mst.op = .idle ∧
      (go one (.lock 0 7)).mst.op ≠ .idle ∧ (go one (.mapSave 0 7)).mst.storeState = .invalid ∧
      tells (go (locked one) (.mapSave 0 7)) 0 .refused .locked 0 0 ∧
      tells (go (go one .wpnAsserted) (.lock 0 7)) 0 .refused .fenced 0 0 ∧
      tells (go (inPart .bare one) (.mapSave 0 7)) 0 .refused .noMap 0 0 ∧
      tells (after one [.mapSave 1 7, .lock 0 7]) 0 .refused .saveActive 0 0 :=
  ⟨standsQuiet (by decide +kernel) (by decide +kernel), by unfold TakenAtOnce; decide +kernel, by decide +kernel⟩

/-- R134: UNLOCK and its refusals. -/
theorem test_unlock :
    StandsAt one one ∧ TakenAtOnce 0 one ∧ one.svm.partState ≠ .fenced ∧ one.mst.op = .idle ∧ one.mve = none ∧
      (go one (.unlock 0 7)).mst.op = .wiping (some 0) ∧
      tells (go (go one .wpnAsserted) (.unlock 0 7)) 0 .refused .fenced 0 0 ∧
      tells (after one [.mapSave 1 7, .unlock 0 7]) 0 .refused .saveActive 0 0 ∧
      tells (after one [.move 1 7 0 1 0 500, .unlock 0 7]) 0 .refused .moveActive 0 0 :=
  ⟨standsQuiet (by decide +kernel) (by decide +kernel), by unfold TakenAtOnce; decide +kernel, by decide +kernel⟩

/-- R142: RESTART, and its refusal during a save. -/
theorem test_restart :
    StandsAt one one ∧ TakenAtOnce 0 one ∧ one.mst.op = .idle ∧
      (after one [.restart 0 7, .restartCmplDeparts]).svm.partState = .loading ∧
      (after one [.restart 0 7, .restartCmplDeparts]).mgu.startCause = .restart ∧
      tells (after one [.mapSave 1 7, .restart 0 7]) 0 .refused .saveActive 0 0 :=
  ⟨standsQuiet (by decide +kernel) (by decide +kernel), by unfold TakenAtOnce; decide +kernel, by decide +kernel⟩

/-- The part with a LOCK whose write is the given one. -/
def saving (step : SaveStep) : State :=
  let s := takeManagement 1 .lock 0 0 0 one
  s.setMst { s.mst with op := .saving step (saveImage true one) (some 1), storeState := .invalid }

/-- The write in progress of a save with tag 1: 0 OPEN, 1 to 8 the rows, 9 CLOSE, and 99 for no save. -/
def writing? (s : State) : Nat :=
  match s.mst.op with
  | .saving .opening _ (some 1) => 0
  | .saving (.row n) _ (some 1) => n.val + 1
  | .saving .closing _ (some 1) => 9
  | _ => 99

/-- R131, R133: the writes of a save, the last row, and the CLOSE write, which sets the lock of a LOCK. -/
theorem test_saveWrites :
    let done := go (saving .closing) .storeWriteEndGood
    (∀ x ∈ [SaveStep.opening, .row 0, .row 7, .closing], running (saving x) = true ∧ dueStep (saving x) = none) ∧
      writing? (go one (.lock 1 7)) = 0 ∧ writing? (go (saving .opening) .storeWriteEndGood) = 1 ∧
      writing? (go (saving (.row 6)) .storeWriteEndGood) = 8 ∧
      writing? (go (saving (.row 7)) .storeWriteEndGood) = 9 ∧ done.mst.op = .idle ∧ done.mst.lock = true ∧
      tells done 1 .good .none 0 1 ∧ one.mst.op = .idle := by decide +kernel

/-- R136: a save that a link reset has detached ends without a completion. -/
theorem test_saveDetached :
    let s := after one [.mapSave 1 7, .linkReset]
    running s = true ∧ dueStep s = none ∧ s.mst.op ≠ .idle ∧ writing? s = 99 ∧
      (go s .storeWriteEndGood).ulc.tx = [] := by decide +kernel

/-- R134: WIPING with no move and with one accepted meanwhile. -/
theorem test_wiping :
    let s := go one (.unlock 1 7)
    let m := go s (.move 2 7 0 1 0 500)
    StandsAt s s ∧ s.mst.op = .wiping (some 1) ∧ s.mve = none ∧ tells (go s .storeWriteEndGood) 1 .good .none 0 0 ∧
      (go s .storeWriteEndGood).svm.partState = .bare ∧
      running m = true ∧ (settle m).mst.op = .wiping (some 1) ∧ (settle m).mve ≠ none ∧
      tells (go m .storeWriteEndGood) 1 .failed .moveActive 0 0 :=
  ⟨standsQuiet (by decide +kernel) (by decide +kernel), by decide +kernel⟩

/-- R132: the detail of a bad end: 8 for a header write before the rows, the row, 9 for CLOSE. -/
theorem test_writeEndsBadly :
    tells (go (saving .opening) .storeWriteEndBad) 1 .failed .storeFail 0 8 ∧
      tells (go (saving (.row 7)) .storeWriteEndBad) 1 .failed .storeFail 0 7 ∧
      tells (go (saving .closing) .storeWriteEndBad) 1 .failed .storeFail 0 9 ∧
      tells (after one [.unlock 1 7, .storeWriteEndBad]) 1 .failed .storeFail 0 8 := by decide +kernel

/-- R141: the start-up read of the factory store, of a saved map with the lock, and of a store that an UNLOCK wiped. -/
def startsWith (s : State) : State := after s [.resetnAsserted, .resetnReleased]

/-- A part that has just started with a store that holds a map, its lock set. -/
def stored : State :=
  let img : SaveImage := ⟨mapOf [ext 3 3 4294967295 1 4294967295 true 1], 65535, 1, ⟨7, .window, 7⟩, true⟩
  State.reset.setMst { State.reset.mst with
    header := imageHeader img, rows := ⟨⟨(List.finRange 8).map fun n => imageRow img n⟩, by simp⟩ }

theorem test_startUpRead :
    StandsAt State.reset State.reset ∧ SupervisionSound State.reset ∧ State.reset.mst.reading = true ∧
      one.mst.reading = false ∧
      (go State.reset .startUpReadEnd).mst.storeState = .identity ∧
      (go State.reset .startUpReadEnd).svm.partState = .run ∧
      (after one [.unlock 1 7, .storeWriteEndGood, .resetnAsserted, .resetnReleased, .startUpReadEnd]).svm.partState =
        .bare ∧
      (after State.reset [.wpnAsserted, .startUpReadEnd]).svm.partState = .fenced :=
  ⟨standsQuiet (by decide +kernel) (by decide +kernel), by unfold SupervisionSound; decide +kernel, by decide +kernel⟩

/-- R127, R141: a saved map, as SavedMapLoads takes it, loads. -/
theorem test_savedMap :
    let m := mapOf [ext 3 3 4294967295 1 4294967295 true 1]
    (∀ i : Fin 64, m[i] = normalExtent m[i]) ∧ (∀ i, ¬RecordFails m i) ∧
      (m.toList.countP fun e => e.used = 1) = 1 := by unfold RecordFails; decide +kernel

theorem test_savedMapLoads : StandsAt stored stored ∧
    (match judgeStore stored.mst with
    | .stored m g set lock => decide (m[0] = ext 3 3 4294967295 1 4294967295 true 1 ∧ g = 65535 ∧
        set = ⟨7, .window, 7⟩ ∧ lock = true)
    | _ => false) = true :=
  ⟨standsQuiet (by decide +kernel) (by decide +kernel), by decide +kernel⟩

/-! ### Witnesses: ports and moves -/

/-- A part with a READ of 1 block at media on MP0. -/
def reading : State := settle (go one (.read 0 0 1 0))

/-- R92, R93: port numbers 3 and 4, a port that is READY with and without a piece at media, and one that is OFFLINE. -/
theorem test_portOffline :
    let off := go one (.portOffline 1 7 3)
    StandsAt one one ∧ TakenAtOnce 1 one ∧ (portOf 3 one).state = .ready ∧ (portOf 3 one).outstanding = none ∧
      tells off 1 .good .none 0 3 ∧ (portOf 3 off).state = .offline ∧ (portOf 3 off).mrst = true ∧
      tells (go one (.portOffline 1 7 4)) 1 .refused .badParam 0 0 ∧
      StandsAt off off ∧ TakenAtOnce 1 off ∧
      StandsAt reading reading ∧ TakenAtOnce 1 reading ∧ (portOf 0 reading).outstanding = some (.piece 0 .rd false) ∧
      (go reading (.portOffline 1 7 0)).mgu.exec = .portWait :=
  ⟨standsQuiet (by decide +kernel) (by decide +kernel), by unfold TakenAtOnce; decide +kernel, by decide +kernel,
    by decide +kernel, by decide +kernel, by decide +kernel, by decide +kernel, by decide +kernel,
    standsQuiet (by decide +kernel) (by decide +kernel), by unfold TakenAtOnce; decide +kernel,
    standsQuiet (by decide +kernel) (by decide +kernel), by unfold TakenAtOnce; decide +kernel, by decide +kernel⟩

/-- R94: ONLINE on an OFFLINE port with and without a unit present, and on another port. -/
theorem test_portOnline :
    let off := go one (.portOffline 1 7 3)
    let gone := go off (.presentnReleased 3)
    (portOf 3 (go off (.portOnline 1 7 3))).state = .probing ∧ (portOf 3 (go gone (.portOnline 1 7 3))).state = .down ∧
      tells (go one (.portOnline 1 7 3)) 1 .good .none 0 3 ∧ tells (go one (.portOnline 1 7 4)) 1 .refused .badParam 0 0 ∧
      running gone = true ∧ dueStep gone = none ∧ TakenAtOnce 1 gone := by unfold TakenAtOnce; decide +kernel

/-- R98: every refusal of MOVE. -/
theorem test_moveRefused :
    let off := go one (.portOffline 1 7 1)
    tells (go (inPart .bare one) (.move 0 7 0 1 0 0)) 0 .refused .noMap 0 0 ∧
      tells (go (locked one) (.move 0 7 0 1 0 0)) 0 .refused .locked 0 0 ∧
      tells (go (go one .wpnAsserted) (.move 0 7 0 1 0 0)) 0 .refused .fenced 0 0 ∧
      tells (after one [.move 1 7 0 1 0 0, .move 0 7 0 1 0 0]) 0 .refused .moveActive 0 0 ∧
      tells (go one (.move 0 7 0 1 1 0)) 0 .refused .badParam 0 0 ∧
      tells (go one (.move 0 7 0 4 0 0)) 0 .refused .badParam 0 0 ∧
      tells (go one (.move 0 7 0 1 0 4294967197)) 0 .refused .badParam 0 0 ∧
      tells (go off (.move 0 7 0 1 0 0)) 0 .refused .portOffline 0 1 ∧
      tells (go one (.move 0 7 0 0 0 99)) 0 .refused .overlap 0 0 ∧
      StandsAt one one ∧ TakenAtOnce 0 one :=
  ⟨by decide +kernel, by decide +kernel, by decide +kernel, by decide +kernel, by decide +kernel, by decide +kernel,
    by decide +kernel, by decide +kernel, by decide +kernel, standsQuiet (by decide +kernel) (by decide +kernel),
    by unfold TakenAtOnce; decide +kernel⟩

/-- R98, R99: a destination that ends at the last PBA, and one that only touches its source. -/
theorem test_moveTaken :
    (one.xmp.active.toList.find? fun e => e.used = 1 && e.unit = 0 && e.lstart = 0) = some (ext 0 0 0 100 0) ∧
      (4294967196 : Word).toNat + (ext 0 0 0 100 0).length.toNat ≤ 4294967296 ∧
      ((go one (.move 0 7 0 1 0 4294967196)).mve.map fun m => (m.dstStart, m.cursor, m.chunk)) =
        some (4294967196, 0, some ⟨8, .held⟩) ∧
      (go one (.move 0 7 0 0 0 100)).mve.isSome = true ∧
      (∀ i : Fin 64, ¬((one.xmp.active[i]).used = 1 ∧ extentPort one.xmp.active[i] = 1)) := by decide +kernel

/-- R107, R103: a whole move of 8 blocks: the switch places the extent and the MOVE is answered GOOD. -/
theorem test_moveRuns :
    let s := after (runs [ext 0 0 0 8 0]) ([.move 0 7 0 1 0 500] ++
      (List.range 8).map (fun i => .mediaData 0 true (Fin.ofNat 8 i) (blockOf 9)) ++ [.mediaStsOk 0 true, .mediaStsOk 1 true])
    tells (settle s) 0 .good .none 0 0 ∧ (settle s).xmp.active[0] = ext 0 1 0 8 500 ∧ (settle s).xmp.generation = 1 ∧
      (settle s).mve = none := by decide +kernel

/-- R160: MGU takes the head of the queue when the part leaves LOADING. -/
theorem test_mguTakesHead :
    let s := after State.reset [.unfence 0 7, .startUpReadEnd]
    running s = true ∧ (settlePrompt s).mgu.exec = .idle ∧ (settlePrompt s).svm.partState ≠ .loading ∧
      (settlePrompt s).rqt.mgmt = [0] ∧ (entryOf 0 (settlePrompt s)).isSome ∧
      tells (go s .mguTakesHead) 0 .good .none 0 0 ∧
      running State.reset = true ∧ (settlePrompt State.reset).rqt.mgmt = [] := by decide +kernel

/-! ### Witnesses: frames from the host -/

/-- R174, R26, R92: a wrong check word, a kind code that names no kind to good and bad units, and PORT action 2. -/
theorem test_badFrame :
    StandsAt one one ∧ entryOf 15 one = none ∧ TakenAtOnce 15 one ∧
      (go one (.badFrame [4, 0, 0])).mgu.flags.link = true ∧
      tells (go one (.badFrame (messageBytes (.req ⟨15, 3, 99, 0, 0, 0, 0, 0⟩)))) 15 .refused .badKind 0 0 ∧
      tells (go one (.badFrame (messageBytes (.req ⟨15, 4, 99, 0, 0, 0, 0, 0⟩)))) 15 .refused .badUnit 0 0 ∧
      tells (go one (.badFrame (messageBytes (.req (paramRequest .port 15 7 0 2 0))))) 15 .refused .badParam 0 0 :=
  ⟨standsQuiet (by decide +kernel) (by decide +kernel), by decide +kernel, by unfold TakenAtOnce; decide +kernel,
    by decide +kernel⟩

/-- R172, R179: a READ spelled byte by byte, with its check word. -/
theorem test_frameSpelled :
    let body : List Byte := [1, 2, 3, 1, 8, 0x78, 0x56, 0x34, 0x12, 0, 0, 0, 0, 0, 0, 0, 0, 0, 0, 0, 0]
    hostMessage (body ++ checkBytes body) = some (.req (dataRequest .read 2 3 8 0x12345678)) ∧
      messageBody (.req (dataRequest .read 2 3 8 0x12345678)) = body := by decide +kernel

/-- A part with a WRITE of 8 blocks whose GRANT is recorded. -/
def writing : State := settle (go one (.write 0 0 8 92))

/-- A part with a MAP STAGE of records 31 to 63 that waits for its two blocks. -/
def staging : State := after one [.mapOpen 1 7, .mapStage 2 7 31 33]

/-- R63, R65: the first and last block of a grant, a second frame, and offsets that no grant covers. -/
theorem test_hostDataPiece :
    StandsAt writing writing ∧ OnlyCover ⟨0, 0, 8, .piece 0⟩ 0 writing ∧ OnlyCover ⟨0, 0, 8, .piece 0⟩ 7 writing ∧
      (∀ g ∈ writing.ulc.grants, g.tag = 0 → ¬(g.first ≤ 8 ∧ 8 < g.first + g.count)) ∧
      ((pieceOf 0 writing).map fun q => (q.filled, q.slots[7]?)) = some ([], some 7) ∧
      ((pieceOf 0 (after writing [.hostData 0 7 (blockOf 1)])).map (·.filled)) = some [7] ∧
      (after writing [.hostData 0 7 (blockOf 1), .hostData 0 7 (blockOf 2)]).mgu.flags.link = true ∧
      (after writing [.hostData 0 8 (blockOf 1)]).mgu.flags.link = true ∧
      (after writing (dataFrames 0 0 8)).ulc.grants = [] :=
  ⟨standsQuiet (by decide +kernel) (by decide +kernel), by unfold OnlyCover; decide +kernel,
    by unfold OnlyCover; decide +kernel, by decide +kernel⟩

/-- R65: the DATA of a withdrawn offset is discarded without a flag. -/
theorem test_hostDataWithdrawn :
    let s := go writing (.cancel 0)
    running s = true ∧ 7 ∈ (settle s).ulc.withdrawn[(0 : Tag)] ∧ (settle s).ulc.grants = [] ∧
      (go s (.hostData 0 7 (blockOf 1))).mgu.flags.link = false := by decide +kernel

/-- R118: the two blocks of a MAP STAGE; the last one applies its records. -/
theorem test_hostDataBuffer :
    let a := go staging (.hostData 2 1 (blockOf 1))
    StandsAt staging staging ∧ OnlyCover ⟨2, 0, 2, .buffer⟩ 0 staging ∧ OnlyCover ⟨2, 0, 2, .buffer⟩ 1 staging ∧
      staging.mgu.buffer[(1 : Fin 2)] = none ∧ StandsAt a a ∧ (a.mgu.buffer[(1 : Fin 2)]).isSome = true ∧
      OnlyCover ⟨2, 0, 2, .buffer⟩ 0 a ∧ a.mgu.buffer[(0 : Fin 2)] = none ∧ (entryOf 2 a).isSome ∧
      tells (go a (.hostData 2 0 (blockOf 1))) 2 .good .none 0 33 ∧
      (go a (.hostData 2 0 (blockOf 1))).xmp.staging[(63 : Fin 64)] =
        ⟨1, 1, 1, 1, false, false, 0x01010101, 0x01010101, 0x01010101⟩ ∧
      (go a (.hostData 2 0 (blockOf 1))).xmp.staging[(30 : Fin 64)] = Extent.empty :=
  ⟨standsQuiet (by decide +kernel) (by decide +kernel), by unfold OnlyCover; decide +kernel,
    by unfold OnlyCover; decide +kernel, by decide +kernel,
    standsQuiet (by decide +kernel) (by decide +kernel), by decide +kernel, by unfold OnlyCover; decide +kernel,
    by decide +kernel⟩

/-- R43: CANCEL on a FREE entry, on waiting requests, on a move, on a MAP STAGE and on a DRAINING request. -/
theorem test_cancel :
    let wait := go State.reset (.read 3 0 5 0)
    let bar := after one [.write 1 0 1 0, .flush 2 0]
    let move := go one (.move 4 7 0 1 0 500)
    let drain := after reading [.cancel 0]
    entryOf 15 one = none ∧ ((entryOf 3 wait).map (·.state)) = some .queued ∧
      tells (go wait (.cancel 3)) 3 .cancelled .none 5 0 ∧
      ((entryOf 2 (settle bar)).map (·.state)) = some .barrier ∧ tells (go bar (.cancel 2)) 2 .cancelled .none 0 0 ∧
      ((settle move).mve.map (·.tag)) = some 4 ∧ tells (go move (.cancel 4)) 4 .cancelled .none 0 0 ∧
      (go move (.cancel 4)).mve = none ∧ staging.mgu.exec = .dataIn ∧
      tells (go staging (.cancel 2)) 2 .cancelled .none 0 0 ∧
      ((entryOf 0 drain).map (·.state)) = some .draining ∧
      ((entryOf 1 (go one (.mapSave 1 7))).map (·.state)) = some .active := by decide +kernel

/-- R44, R48: CANCEL on a READ with pieces QUEUED and at media, and on a FLUSH with pieces on two ports. -/
theorem test_cancelDrains :
    let a := settle (go one (.read 0 0 24 0))
    let f := settle (go (runs [ext 0 0 0 10 0, ext 0 1 10 10 0]) (.flush 5 0))
    StandsAt a a ∧ ((entryOf 0 a).map fun e => (e.state, e.notEnded)) = some (.active, 3) ∧
      ((entryOf 0 (go a (.cancel 0))).map fun e => (e.state, e.notEnded)) = some (.draining, 1) ∧
      StandsAt f f ∧ ((entryOf 5 f).map fun e => (e.kind, e.state, e.flPorts)) =
        some (.flush, .active, [(0, .cut), (1, .cut)]) :=
  ⟨standsQuiet (by decide +kernel) (by decide +kernel), by decide +kernel, by decide +kernel,
    standsQuiet (by decide +kernel) (by decide +kernel), by decide +kernel⟩

/-- A WRITE of 16 blocks on two ports: its piece 0 is FILLING, its piece 1 has its data and is at media. -/
def halfFilled : State := after (runs [ext 0 0 0 8 0, ext 0 1 8 8 0]) ([.write 0 0 16 0] ++ dataFrames 0 8 8)

/-- R44, R65: CANCEL drops the piece FILLING with its slots and its grant, one of whose blocks has come; the piece at
media runs on. -/
theorem test_cancelFilling :
    let s := settle (go halfFilled (.hostData 0 3 (blockOf 1)))
    let t := go s (.cancel 0)
    piecesTo 2 s = [some (.tag 0, .filling), some (.tag 0, .atMedia)] ∧ s.spa.free.length = 16 ∧
      ((entryOf 0 s).map (·.state)) = some .active ∧ ((pieceOf 0 s).map (·.filled)) = some [3] ∧
      piecesTo 2 t = [none, some (.tag 0, .atMedia)] ∧ t.spa.free.length = 24 ∧ t.ulc.grants = [] ∧
      t.ulc.withdrawn[(0 : Tag)] = [0, 1, 2, 4, 5, 6, 7] := by decide +kernel

/-- R49, R73: a link reset with a read at media, a write FILLING, a move and an OPEN staging. -/
theorem test_linkReset :
    let s := after one [.mapOpen 1 7, .read 0 0 8 0, .write 2 0 8 8, .move 3 7 0 1 0 500]
    running s = true ∧ (settle s).mve.isSome = true ∧
      ((pieceOf 0 (settle s)).map fun q => (q.owner, q.state)) = some (.tag 0, .atMedia) ∧
      ((pieceOf 0 (go s .linkReset)).map fun q => (q.owner, q.state)) = some (.discard, .atMedia) ∧
      (go s .linkReset).mve = none ∧ (go s .linkReset).xmp.stagingOpen = false := by decide +kernel

/-- R48: CANCEL on a FLUSH with an FL piece QUEUED behind a READ and one at media, and on one that has cut none. -/
theorem test_cancelFlush :
    let two := runs [ext 0 0 0 10 0, ext 0 1 10 10 0]
    let queued := after two [.read 0 0 1 0, .flush 5 0]
    let uncut := after two [.flush 5 0, .flushResolution]
    ((entryOf 5 (settle queued)).map (·.flPorts)) = some [(0, .cut), (1, .cut)] ∧
      ((entryOf 5 (go queued (.cancel 5))).map fun e => (e.state, e.notEnded, e.flPorts)) =
        some (.draining, 1, [(0, .dropped), (1, .cut)]) ∧
      ((entryOf 5 uncut).map fun e => (e.state, e.flPorts)) = some (.active, [(0, .uncut), (1, .uncut)]) := by
  decide +kernel

/-! ### Witnesses: departures, start-up and the lines -/

def withFaults (n : Nat) (s : State) : State := modPort 0 (fun x => { x with faults := n }) s

/-- A part whose READ of 2 blocks has its data: the first DATA frame stands in the transmit list. -/
def delivering : State :=
  after one [.read 0 0 2 0, .mediaData 0 true 0 (blockOf 1), .mediaData 0 true 1 (blockOf 2), .mediaStsOk 0 true]

/-- R67: the first and the last frame of a READ leave. -/
theorem test_readDeparts :
    let front := fun (s : State) => s.ulc.tx.map fun f => match f with | .readData id t n _ => (id.val, t.val, n) | _ => (99, 99, 99)
    running delivering = true ∧ dueStep delivering = none ∧ front delivering = [(0, 0, 0)] ∧
      ((pieceOf 0 delivering).map fun q => (q.owner, q.slots)) = some (.tag 0, [0, 1]) ∧
      dueStep (go delivering .readDataDeparts) = none ∧ front (go delivering .readDataDeparts) = [(0, 0, 1)] ∧
      ((pieceOf 0 (go delivering .readDataDeparts)).map (·.slots)) = some [1] ∧
      ((entryOf 0 (go delivering .readDataDeparts)).map fun e => (namesBlocks e.kind, e.state)) = some (true, .active) ∧
      tells (after delivering [.readDataDeparts, .readDataDeparts]) 0 .good .none 0 0 ∧
      -- R91: the DONE sets the fault count of the port to 0
      (portOf 0 (after (withFaults 2 delivering) [.readDataDeparts])).faults = 2 ∧
      (portOf 0 (after (withFaults 2 delivering) [.readDataDeparts, .readDataDeparts])).faults = 0 := by decide +kernel

/-- R176, R163, R126: a frame of each kind at the front. -/
theorem test_frameKinds :
    let front := fun (s : State) => s.ulc.tx.head?
    (match front (go one (.unfence 0 7)) with | some (.cmpl _ false) => true | _ => false) = true ∧
      front writing = some (.grant 0 0 8) ∧
      (match front (go one (.peek 0 7)) with | some (.peekData 0 _) => true | _ => false) = true ∧
      (match front (go one (.restart 0 7)) with | some (.cmpl _ true) => true | _ => false) = true ∧
      front (go one (.status 0 7)) = some (.statusData 0) ∧
      ((go one (.mapRead 0 7 0 0 64)).ulc.tx.map fun f => match f with | .mgmtData _ n _ => n | _ => 9) = [0, 1] ∧
      tells (after one [.mapRead 0 7 0 0 64, .mgmtDataDeparts, .mgmtDataDeparts]) 0 .good .none 0 64 ∧
      tells (after one [.status 0 7, .mgmtDataDeparts]) 0 .good .none 0 0 ∧
      attention (go (go one .linkReset) (.badFrame [4, 0, 0])) = true ∧
      attention (after one [.badFrame [4, 0, 0], .status 0 7, .mgmtDataDeparts]) = false ∧
      (go writing .frameDeparture).out.sent = [.grant 0 0 8] := by decide +kernel

/-- R139, R142: the start-ups and their causes. -/
theorem test_startUps :
    let off := go one .powerLoss
    (go one .resetnAsserted).pins.resetLow = true ∧ (go one .resetnAsserted).pins.powered = true ∧
      (after one [.resetnAsserted, .resetnReleased]).mgu.startCause = .pin ∧
      off.pins.powered = false ∧ off.pins.resetLow = false ∧ off.pins.started = false ∧
      (go off .powerOn).mgu.startCause = .power ∧ (go off .resetnAsserted).pins.resetLow = true ∧
      (after off [.resetnAsserted, .powerOn, .resetnReleased]).mgu.startCause = .power ∧
      (portOf 0 (go off .powerOn)).state = .probing := by decide +kernel

/-- R137: a write cut off at OPEN, at a row, at CLOSE, and none. -/
theorem test_stops : (∀ x ∈ [SaveStep.opening, .row 0, .row 7, .closing],
      running (saving x) = true ∧ running (go (saving x) .powerLoss) = false ∧ (go (saving x) .powerLoss).mst.op = .idle) ∧
    StandsAt one one ∧ running (go (go one (.unlock 1 7)) .resetnAsserted) = false :=
  ⟨by decide +kernel, standsQuiet (by decide +kernel) (by decide +kernel), by decide +kernel⟩

/-- R79, R80, R93: a level that does not change, a unit that comes and goes, and one that goes with offline pending. -/
theorem test_presence :
    let out := go one (.presentnReleased 2)
    let pend := go reading (.portOffline 1 7 0)
    StandsAt one one ∧ one.pins.presentLow[(2 : PortId)] = true ∧ (portOf 2 out).state = .down ∧
      StandsAt out out ∧ out.pins.presentLow[(2 : PortId)] = false ∧
      (portOf 2 (go out (.presentnAsserted 2))).state = .probing ∧
      StandsAt pend pend ∧ (portOf 0 pend).offlinePending = .yes (some 1) ∧ pend.pins.presentLow[(0 : PortId)] = true ∧
      (portOf 0 (go pend (.presentnReleased 0))).state = .offline ∧
      tells (go pend (.presentnReleased 0)) 1 .good .none 0 0 :=
  ⟨standsQuiet (by decide +kernel) (by decide +kernel), by decide +kernel, by decide +kernel,
    standsQuiet (by decide +kernel) (by decide +kernel), by decide +kernel, by decide +kernel,
    standsQuiet (by decide +kernel) (by decide +kernel), by decide +kernel⟩

/-- R151 to R154: WPn at a part in RUN, in LOADING, and at one FENCED by it. -/
theorem test_writePin :
    let f := go one .wpnAsserted
    StandsAt one one ∧ SupervisionSound one ∧ one.svm.causes.pin = false ∧ one.svm.partState = .run ∧
      State.reset.svm.partState ≠ .run ∧ StandsAt f f ∧ SupervisionSound f ∧ f.svm.causes.pin = true ∧
      f.svm.partState = .fenced ∧ f.mgu.flags.fence = true ∧ (go f .wpnReleased).svm.partState = .run ∧
      tells (after one [.move 0 7 0 1 0 500, .wpnAsserted]) 0 .failed .fenced 0 0 :=
  ⟨standsQuiet (by decide +kernel) (by decide +kernel), by unfold SupervisionSound; decide +kernel, by decide +kernel,
    by decide +kernel, by decide +kernel, standsQuiet (by decide +kernel) (by decide +kernel),
    by unfold SupervisionSound; decide +kernel, by decide +kernel⟩

/-! ### Witnesses: timers and the media links -/

/-- R64, R119: a grant with its first block, whose second is the lowest missing, and one of a MAP STAGE. -/
theorem test_grantExpires :
    let w := go writing (.hostData 0 0 (blockOf 1))
    let m := go staging (.hostData 2 0 (blockOf 1))
    StandsAt w w ∧ ⟨0, 0, 8, .piece 0⟩ ∈ w.ulc.grants ∧ w.ulc.grants.length = 1 ∧ 0 ∈ filledOf ⟨0, 0, 8, .piece 0⟩ w ∧
      1 ∉ filledOf ⟨0, 0, 8, .piece 0⟩ w ∧
      ((pieceOf 0 w).map fun q => (q.owner, q.state)) = some (.tag 0, .filling) ∧
      tells (go w (.grantTimeExpiry 0 0)) 0 .failed .dataTimeout 8 93 ∧
      StandsAt m m ∧ m.ulc.grants = [⟨2, 0, 2, .buffer⟩] ∧ 1 ∉ filledOf ⟨2, 0, 2, .buffer⟩ m ∧
      tells (go m (.grantTimeExpiry 2 0)) 2 .failed .dataTimeout 0 1 :=
  ⟨standsQuiet (by decide +kernel) (by decide +kernel), by decide +kernel, by decide +kernel, by decide +kernel,
    by decide +kernel, by decide +kernel, by decide +kernel,
    standsQuiet (by decide +kernel) (by decide +kernel), by decide +kernel⟩

/-- R35, R64, R65: the piece at offset 0 is late: the request's piece FILLING above it is dropped with its slots and its
grant, and one at media runs on. -/
theorem test_failureDrops :
    let both := settle (after (runs [ext 0 0 0 8 0, ext 0 1 8 8 0]) [.write 0 0 16 0])
    let late := fun s => go s (.grantTimeExpiry 0 0)
    piecesTo 2 both = [some (.tag 0, .filling), some (.tag 0, .filling)] ∧ piecesTo 2 (late both) = [none, none] ∧
      (late both).ulc.grants = [] ∧ (late both).spa.free.length = 32 ∧
      (∀ i ∈ List.range 16, i ∈ (late both).ulc.withdrawn[(0 : Tag)]) ∧
      tells (late both) 0 .failed .dataTimeout 16 0 ∧
      piecesTo 2 (late halfFilled) = [none, some (.tag 0, .atMedia)] ∧
      ((entryOf 0 (late halfFilled)).map fun e => (e.state, e.notEnded)) = some (.draining, 1) := by decide +kernel

/-- R35, R88: a fault of the first piece of a READ: its other pieces in the queue are dropped, and the VERIFY behind them
waits while the port recovers. -/
theorem test_queueWaits :
    let s := settle (after one [.read 0 0 24 0, .verify 1 0 1 50])
    let t := go s (.pieceTimerExpiry 0)
    queueOf 0 s = [0, 1, 2, 3] ∧ s.mve = none ∧ (portOf 0 s).outstanding = some (.piece 0 .rd false) ∧
      (portOf 0 t).state = .recovering ∧ queueOf 0 t = [3] ∧ pieceOf 3 t = pieceOf 3 s ∧
      piecesTo 4 t = [none, none, none, some (.tag 1, .queued)] ∧ tells t 0 .failed .timeout 24 0 := by decide +kernel

/-- R88, R91: the third and the fourth fault of a port, and one with offline pending. -/
theorem test_mediaFault :
    let a := withFaults 2 reading
    let b := withFaults 3 reading
    let c := go reading (.portOffline 1 7 0)
    StandsAt a a ∧ (portOf 0 a).outstanding = some (.piece 0 .rd false) ∧ (portOf 0 a).pieceTimer.isSome = true ∧
      (portOf 0 (go a (.pieceTimerExpiry 0))).state = .recovering ∧
      (portOf 0 (go a (.pieceTimerExpiry 0))).faults = 3 ∧
      tells (go a (.pieceTimerExpiry 0)) 0 .failed .timeout 1 0 ∧
      StandsAt b b ∧ (portOf 0 (go b (.mediaStsNotReady 0 true))).state = .offline ∧
      StandsAt c c ∧ (portOf 0 c).offlinePending ≠ .no ∧ (portOf 0 (go c (.pieceTimerExpiry 0))).state = .offline :=
  ⟨standsQuiet (by decide +kernel) (by decide +kernel), by decide +kernel, by decide +kernel, by decide +kernel,
    by decide +kernel, by decide +kernel, standsQuiet (by decide +kernel) (by decide +kernel), by decide +kernel,
    standsQuiet (by decide +kernel) (by decide +kernel), by decide +kernel⟩

/-- R74, R83 to R86: a probe that fails for the third and the fourth time, one that ends well, and no probe. -/
theorem test_probe :
    let a := withFaults 2 (startsWith one)
    let b := withFaults 3 (startsWith one)
    StandsAt a a ∧ (portOf 0 a).probeTimer = true ∧ (portOf 0 a).outstanding = some .inquiry ∧
      (portOf 0 (go a (.probeTimerExpiry 0))).state = .probing ∧
      (portOf 0 (go a (.mediaStsInquiry 0 true 5 true))).state = .ready ∧
      (portOf 0 (go a (.mediaStsInquiry 0 true 5 true))).faults = 2 ∧
      StandsAt b b ∧ (portOf 0 (go b (.mediaStsInquiry 0 true 5 false))).state = .offline ∧
      (portOf 0 one).probeTimer = false ∧ (portOf 0 one).outstanding ≠ some .inquiry ∧
      a.out.media.getLast? = some (3, .inquiry 0 1) :=
  ⟨standsQuiet (by decide +kernel) (by decide +kernel), by decide +kernel, by decide +kernel, by decide +kernel,
    by decide +kernel, by decide +kernel, standsQuiet (by decide +kernel) (by decide +kernel), by decide +kernel⟩

/-- R76: the DATA of a read, a second one, one beyond it, and one with no read at media. -/
theorem test_mediaData :
    let a := go reading (.mediaData 0 true 0 (blockOf 1))
    StandsAt reading reading ∧ (portOf 0 reading).outstanding = some (.piece 0 .rd false) ∧
      (portOf 0 reading).received = [] ∧ ((pieceOf 0 reading).map (·.slots)) = some [0] ∧
      (portOf 0 a).received = [0] ∧ (portOf 0 (go a (.mediaData 0 true 0 (blockOf 2)))).received = [0] ∧
      (portOf 0 (go reading (.mediaData 0 true 1 (blockOf 1)))).received = [] ∧
      (portOf 1 reading).outstanding = none := ⟨standsQuiet (by decide +kernel) (by decide +kernel), by decide +kernel⟩

/-- A part in which a WRITE of 1 block is at media on MP0, with verify or without. -/
def atMedia (verify : Bool) : State :=
  after (runs [ext 0 0 0 100 0 verify]) [.write 0 0 1 9, .hostData 0 0 (blockOf 3)]

/-- R66, R68, R90: the good end of a read, of a write with its verify, of a plain write and of a verify. -/
theorem test_mediaOk :
    let read := go reading (.mediaData 0 true 0 (blockOf 1))
    let vf := settle (go one (.verify 0 0 8 0))
    StandsAt read read ∧ ((pieceOf 0 (go read (.mediaStsOk 0 true))).map (·.state)) = some .delivering ∧
      ((pieceOf 0 (go reading (.mediaStsOk 0 true))).map (·.state)) = some .atMedia ∧
      StandsAt (atMedia true) (atMedia true) ∧ (portOf 0 (atMedia true)).outstanding = some (.piece 0 .wr false) ∧
      (portOf 0 (go (atMedia true) (.mediaStsOk 0 true))).outstanding = some (.piece 0 .vf false) ∧
      tells (after (atMedia true) [.mediaStsOk 0 true, .mediaStsOk 0 true]) 0 .good .none 0 0 ∧
      StandsAt (atMedia false) (atMedia false) ∧ tells (go (atMedia false) (.mediaStsOk 0 true)) 0 .good .none 0 0 ∧
      StandsAt vf vf ∧ tells (go vf (.mediaStsOk 0 true)) 0 .good .none 0 0 ∧ (portOf 1 one).outstanding = none :=
  ⟨standsQuiet (by decide +kernel) (by decide +kernel), by decide +kernel, by decide +kernel,
    standsQuiet (by decide +kernel) (by decide +kernel), by decide +kernel, by decide +kernel, by decide +kernel,
    standsQuiet (by decide +kernel) (by decide +kernel), by decide +kernel,
    standsQuiet (by decide +kernel) (by decide +kernel), by decide +kernel⟩

/-- R66, R73, R93: a read above the failure point, one that a link reset left, and offline pending. -/
theorem test_mediaOkOther :
    let two := runs [ext 0 0 0 8 0, ext 0 1 8 8 0]
    let data := fun (p : PortId) => (List.range 8).map fun i => Instr.mediaData p true (Fin.ofNat 8 i) (blockOf 9)
    let fails := after two ([.read 0 0 16 0, .mediaStsError 0 true 3 .range] ++ data 1)
    let left := after reading [.linkReset, .mediaData 0 true 0 (blockOf 1)]
    let pend := after reading [.portOffline 1 7 0, .mediaData 0 true 0 (blockOf 1)]
    ((entryOf 0 fails).map fun e => (e.failure, e.notEnded)) = some (some (3, .mediaRange), 1) ∧
      ((pieceOf 1 fails).map fun q => (q.offset, q.state)) = some (8, .atMedia) ∧
      tells (go fails (.mediaStsOk 1 true)) 0 .failed .mediaRange 16 3 ∧
      ((pieceOf 0 left).map (·.owner)) = some .discard ∧ pieceOf 0 (go left (.mediaStsOk 0 true)) = none ∧
      (portOf 0 pend).offlinePending = .yes (some 1) ∧ tells (go pend (.mediaStsOk 0 true)) 1 .good .none 0 0 := by
  decide +kernel

/-- R66, R90: the index of an ERROR at and beyond a piece's last block, a flush, and the verify of a write. -/
theorem test_mediaError :
    let flush := settle (go one (.flush 5 0))
    StandsAt reading reading ∧ (portOf 0 reading).offlinePending = .no ∧
      ((pieceOf 0 reading).map fun q => (q.owner, q.state, q.count)) = some (.tag 0, .atMedia, 1) ∧
      tells (go reading (.mediaStsError 0 true 0 .uncorrectable)) 0 .failed .media 1 0 ∧
      (portOf 0 (go reading (.mediaStsError 0 true 1 .range))).outstanding = some (.piece 0 .rd false) ∧
      (portOf 0 (go reading (.mediaStsError 0 false 0 .range))).outstanding = some (.piece 0 .rd false) ∧
      tells (after (atMedia true) [.mediaStsOk 0 true, .mediaStsError 0 true 0 .range]) 0 .failed .media 1 9 ∧
      StandsAt flush flush ∧ (portOf 0 flush).outstanding = some (.piece 0 .fl false) ∧
      tells (go flush (.mediaStsError 0 true 7 .range)) 5 .failed .media 0 0 :=
  ⟨standsQuiet (by decide +kernel) (by decide +kernel), by decide +kernel, by decide +kernel, by decide +kernel,
    by decide +kernel, by decide +kernel, by decide +kernel,
    standsQuiet (by decide +kernel) (by decide +kernel), by decide +kernel⟩

/-- DATA frames of the media for a whole piece of `n` blocks. -/
def mediaFrames (p : PortId) (n : Nat) : List Instr :=
  (List.range n).map fun i => .mediaData p true (Fin.ofNat 8 i) (blockOf 9)

/-- A part whose MOVE has its CP piece at media on the source. -/
def copying : State := settle (go one (.move 3 7 0 1 0 500))

/-- That CP piece at media on the destination. -/
def copied : State := after copying (mediaFrames 0 8 ++ [.mediaStsOk 0 true])

/-- R69, R103: the end of the copy's read and of its write. -/
theorem test_copies :
    StandsAt copying copying ∧ (portOf 0 copying).outstanding = some (.piece 0 .rd false) ∧
      ((pieceOf 0 copying).bind (·.shadow)) = some ⟨1, 500, false, .pending⟩ ∧
      StandsAt copied copied ∧ (portOf 1 copied).outstanding = some (.piece 0 .wr true) ∧
      ((pieceOf 0 copied).map fun q => (q.kind, q.owner, q.verify, q.state)) = some (.cp, .move, false, .shadow) ∧
      (copied.mve.map fun m => (m.piece, m.chunk, m.cursor)) = some (some 0, some ⟨8, .cut⟩, 0) ∧
      copied.psc.waiting = [] ∧ copied.mst.op = .idle ∧
      ((go copied (.mediaStsOk 1 true)).mve.map fun m => (m.cursor, m.chunk)) = some (8, some ⟨8, .held⟩) :=
  ⟨standsQuiet (by decide +kernel) (by decide +kernel), by decide +kernel, by decide +kernel,
    standsQuiet (by decide +kernel) (by decide +kernel), by decide +kernel⟩

/-- R14, R70: a WRITE below the cursor, over the chunk in flight, and beyond it: it is cut in three, and the piece over
the chunk waits for it. -/
def dualWrite : State := after copied [.mediaStsOk 1 true, .write 6 0 20 4]

theorem test_dualWrite :
    (entryOf 6 (settle dualWrite)).map (fun e => e.segments.map fun g => (g.offset, g.length, g.start, g.target)) =
        some [(0, 4, 4, .dual 1 504), (4, 8, 8, .dualAfterChunk 1 508), (12, 8, 16, .single)] ∧
      ((settle dualWrite).mve.map fun m => (m.dual, m.blocking)) = some ([6], []) := by decide +kernel

/-- R69, R70: the source phase of a dual WRITE ends: over the chunk it waits, elsewhere it goes on; its destination
write ends. -/
theorem test_dualPhases :
    let s := after dualWrite (mediaFrames 0 8)
    let a := after s ([.mediaStsOk 0 true] ++ dataFrames 6 0 4)
    let b := after a ([.mediaStsOk 0 true] ++ dataFrames 6 4 8)
    ((portOf 0 (settle dualWrite)).outstanding = some (.piece 0 .rd false)) ∧
      running a = true ∧ ((portOf 0 (settle a)).outstanding) = some (.piece 1 .wr false) ∧
      ((pieceOf 1 (settle a)).map fun q => (q.kind, q.shadow)) = some (.wr, some ⟨1, 504, false, .pending⟩) ∧
      ((portOf 0 (settle b)).outstanding) = some (.piece 2 .wr false) ∧
      ((pieceOf 2 (settle b)).map fun q => (q.kind, q.shadow)) = some (.wr, some ⟨1, 508, true, .pending⟩) ∧
      ((pieceOf 2 (go b (.mediaStsOk 0 true))).map (·.state)) = some .shadowWait ∧
      ((pieceOf 2 (after b [.mediaStsOk 0 true, .mediaStsOk 1 true])).map (·.state)) = some .shadow ∧
      ((entryOf 6 (after b [.mediaStsOk 1 true, .mediaStsOk 1 true])).map (·.done)) = some [0, 1, 2, 3] := by
  decide +kernel

/-- A part whose MOVE, with tag 3 and its second chunk at media on the destination, has pieces of WRITE 6 in SHADOW and in
SHADOW_WAIT. -/
def shadowed : State :=
  after dualWrite (mediaFrames 0 8 ++ [.mediaStsOk 0 true] ++ dataFrames 6 0 4 ++ [.mediaStsOk 0 true] ++
    dataFrames 6 4 8 ++ [.mediaStsOk 0 true])

/-- The details of the completions handed over. -/
def details (s : State) : List Nat :=
  s.ulc.tx.filterMap fun f => match f with
    | .cmpl x _ => some x.detail.toNat
    | _ => none

/-- R70, R101, R103: the end of the chunk: the piece in SHADOW_WAIT joins the destination queue, and the blocking set of
the next chunk holds WRITE 6, whose last blocks reach the source alone. -/
theorem test_nextChunk :
    let t := go shadowed (.mediaStsOk 1 true)
    (shadowed.psc.waiting, (pieceOf 2 shadowed).map (·.state)) = ([2], some .shadowWait) ∧ queueOf 1 t = [1, 2] ∧
      ((pieceOf 2 t).map fun q => (q.state, q.shadow.map (·.state))) = some (.shadow, some .queued) ∧
      (t.mve.map fun m => (m.cursor, m.chunk, m.blocking)) = some (16, some ⟨8, .held⟩, [6]) := by decide +kernel

/-- R71, R110, R111: an abort by CANCEL: the CP piece in SHADOW is detached, the WR piece in SHADOW runs on and the one in
SHADOW_WAIT ends DONE to its WRITE. -/
theorem test_abortReleases :
    let t := go shadowed (.cancel 3)
    ((settle shadowed).mve.map fun m => (m.tag, m.cursor, m.shadows)) = some (3, 8, [0, 1, 2]) ∧
      piecesTo 3 (settle shadowed) = [some (.move, .shadow), some (.tag 6, .shadow), some (.tag 6, .shadowWait)] ∧
      piecesTo 3 t = [some (.discard, .shadow), some (.tag 6, .shadow), none] ∧
      ((entryOf 6 t).map fun e => (e.notEnded, e.done)) = some (2, [4, 5, 6, 7, 8, 9, 10, 11]) := by decide +kernel

/-- R109: exits of a port of the move: a piece of the move fails first, or none does, and the cursor is the detail. -/
theorem test_exitAborts :
    let a := go shadowed (.pieceTimerExpiry 1)
    let b := go shadowed (.presentnReleased 0)
    let c := go shadowed (.presentnReleased 1)
    queueOf 1 (settle shadowed) = [0, 1] ∧ (settle shadowed).mve.bind (fun m => failingLba m 0 0 (settle shadowed)) = some 8 ∧
      (told a, details a) = ([(3, .failed, .timeout)], [8]) ∧
      (told b, details b) = ([(3, .failed, .portDown)], [8]) ∧ ((entryOf 6 b).map (·.failure)) = some (some (12, .portDown)) ∧
      (told c, details c) = ([(3, .failed, .portDown)], [8]) := by decide +kernel

/-- R38, R70, R105: a destination write of WRITE 6 fails while its move is active and after it was aborted. -/
theorem test_shadowFails :
    let s := go shadowed (.mediaStsOk 1 true)
    let a := go s (.mediaStsError 1 true 1 .range)
    let b := after s [.cancel 3, .mediaStsError 1 true 1 .range]
    (portOf 1 s).outstanding = some (.piece 1 .wr true) ∧ (told a, details a) = ([(3, .failed, .mediaRange)], [5]) ∧
      ((entryOf 6 a).map (·.done)) = some [0, 1, 2, 3] ∧ ((entryOf 6 b).map (·.done)) = some [0, 1, 2, 3] := by
  decide +kernel

/-- R88, R106 (log 25): a timer expiry ends the last dual WRITE of a move at its length: the switch comes before the exit. -/
theorem test_switchAtFault :
    let m : Move := ⟨true, 9, 0, 0, 100, 0, 0, 1, 500, false, 100, none, none, [], [0], []⟩
    let s := (atMedia false).setMve (some m)
    StandsAt s s ∧ ((entryOf 0 s).map fun e => (e.notEnded, cuttable e, e.state)) = some (1, false, .active) ∧
      ((pieceOf 0 s).map fun q => (q.owner, q.state)) = some (.tag 0, .atMedia) ∧
      told (go s (.pieceTimerExpiry 0)) = [(0, .failed, .timeout), (9, .good, .none)] :=
  ⟨standsQuiet (by decide +kernel) (by decide +kernel), by decide +kernel⟩

/-- R49, R71, R111: a link reset with the CP piece at media on the source, with it in the shadow queue, and with a WRITE
piece in SHADOW_WAIT; the DATA frame of a PEEK and its CMPL stay and the GRANT before them goes. -/
theorem test_linkResetMove :
    let wait := shadowed
    let peek := go writing (.peek 9 7)
    ((pieceOf 0 (go copying .linkReset)).map fun q => (q.owner, q.state, q.shadow)) = some (.discard, .atMedia, none) ∧
      ((pieceOf 0 (go copied .linkReset)).map fun q => (q.owner, q.state)) = some (.discard, .shadow) ∧
      (wait.mve.map fun m => (m.shadows, wait.psc.waiting)) = some ([0, 1, 2], [2]) ∧
      ((pieceOf 2 wait).map fun q => (q.owner, q.kind, q.state)) = some (.tag 6, .wr, .shadowWait) ∧
      pieceOf 2 (go wait .linkReset) = none ∧ peek.ulc.tx.length = 3 ∧
      ((go peek .linkReset).ulc.tx.map fun f => match f with | .peekData t _ => some t | _ => none) = [some 9, none] := by
  decide +kernel

/-- A part whose MOVE of 8 blocks has its only CP piece at media on the destination. -/
def lastCopy : State :=
  after (runs [ext 0 0 0 8 0]) ([.move 3 7 0 1 0 500] ++ mediaFrames 0 8 ++ [.mediaStsOk 0 true])

/-- R93, R97, R103: its good end on a port that is to go OFFLINE: the switch comes first. -/
theorem test_switchBeforeOffline :
    let s := go lastCopy (.portOffline 4 7 1)
    let t := go s (.mediaStsOk 1 true)
    StandsAt s s ∧ (portOf 1 s).outstanding = some (.piece 0 .wr true) ∧ (portOf 1 s).offlinePending = .yes (some 4) ∧
      ((pieceOf 0 s).map fun q => (q.kind, q.owner, q.verify)) = some (.cp, .move, false) ∧
      (s.mve.map fun m => (m.chunk, m.cursor, m.length, m.dual)) = some (some ⟨8, .cut⟩, 0, 8, []) ∧
      s.mst.op = .idle ∧ s.psc.waiting = [] ∧ told t = [(3, .good, .none), (4, .good, .none)] ∧
      t.xmp.active[(0 : Fin 64)] = ext 0 1 0 8 500 ∧ t.xmp.generation = 1 ∧ (portOf 1 t).state = .offline :=
  ⟨standsQuiet (by decide +kernel) (by decide +kernel), by decide +kernel⟩

/-- R107: the same end while a store operation is in progress leaves the move in SWITCH_PENDING. -/
theorem test_switchWaits :
    let s := lastCopy.setMst { lastCopy.mst with op := .wiping none }
    StandsAt s s ∧ ((go s (.mediaStsOk 1 true)).mve.map fun m => (m.cursor, m.pending, m.chunk, m.piece)) =
      some (8, true, none, none) := ⟨standsQuiet (by decide +kernel) (by decide +kernel), by decide +kernel⟩

/-- R93: the status is taken before the port goes OFFLINE: a read delivers, a write that would verify fails, a FLUSH is
answered, and the CP piece goes on to the destination queue, its move aborted. -/
theorem test_takenBeforeOffline :
    let pend := fun (s : State) => go s (.portOffline 8 7 0)
    let read := after (pend reading) [.mediaData 0 true 0 (blockOf 1), .mediaStsOk 0 true]
    let copy := after (pend copying) (mediaFrames 0 8 ++ [.mediaStsOk 0 true])
    ((pieceOf 0 read).map (·.state)) = some .delivering ∧
      told (go (pend (atMedia true)) (.mediaStsOk 0 true)) = [(0, .failed, .portOffline), (8, .good, .none)] ∧
      told (go (pend (atMedia false)) (.mediaStsOk 0 true)) = [(0, .good, .none), (8, .good, .none)] ∧
      told (go (pend (settle (go one (.flush 5 0)))) (.mediaStsOk 0 true)) = [(5, .good, .none), (8, .good, .none)] ∧
      told copy = [(3, .failed, .portOffline), (8, .good, .none)] ∧ queueOf 1 copy = [0] ∧
      ((pieceOf 0 copy).map fun q => (q.owner, q.state)) = some (.discard, .shadow) := by decide +kernel

/-- R91, R93, R103: an ERROR for the CP piece, for a DISCARD piece, and with offline pending. -/
theorem test_mediaErrorOther :
    let left := go reading .linkReset
    let pend := go reading (.portOffline 1 7 0)
    tells (go copied (.mediaStsError 1 true 5 .range)) 3 .failed .mediaRange 0 5 ∧
      ((pieceOf 0 left).map (·.owner)) = some .discard ∧ left.mve = none ∧
      (portOf 0 (go left (.mediaStsError 0 true 0 .range))).outstanding = none ∧
      told (go pend (.mediaStsError 0 true 0 .range)) = [(0, .failed, .mediaRange), (1, .good, .none)] := by
  decide +kernel

/-- R89, R91: the fourth fault of a port beside a move between two others: the owner of the piece takes TIMEOUT. -/
theorem test_faultBesideMove :
    let s := withFaults 3 (settle (after (runs [ext 0 2 0 8 0, ext 1 0 0 9 0]) [.move 3 7 0 1 0 500, .read 0 1 1 0]))
    let id := 1
    StandsAt s s ∧ (portOf 0 s).outstanding = some (.piece id .rd false) ∧
      ((pieceOf id s).map fun q => (q.owner, q.state)) = some (.tag 0, .atMedia) ∧ queueOf 0 s = [id] ∧
      ((entryOf 0 s).map fun e => (e.waitSet, e.state)) = some ([], .active) ∧ (s.mve.map (·.tag)) = some 3 ∧
      (portOf 0 (go s (.mediaStsNotReady 0 true))).state = .offline ∧
      tells (go s (.mediaStsNotReady 0 true)) 0 .failed .timeout 1 0 :=
  ⟨standsQuiet (by decide +kernel) (by decide +kernel), by decide +kernel⟩

/-! ### Witnesses: the steps that the part takes by itself -/

/-- R10, R12: the intake in LOADING, the refusals, the first and last block of an extent, and a full segment pool. -/
theorem test_intake :
    let p := runs [ext 0 0 0 100 0 false 1, ext 0 0 100 100 100 false 2]
    (settlePrompt (go State.reset (.read 0 0 1 0))).svm.partState = .loading ∧
      tells (after one [.read 0 0 1 99, .intakeHeadResolution]) 9 .good .none 0 0 = false ∧
      (entryOf 0 (after one [.read 0 0 1 99, .intakeHeadResolution])).map (·.segments) =
        some [⟨0, 1, 0, 99, false, .single⟩] ∧
      tells (after one [.read 0 0 2 99, .intakeHeadResolution]) 0 .refused .range 2 100 ∧
      tells (after p [.write 0 0 1 99, .intakeHeadResolution]) 0 .refused .writeProtected 1 99 ∧
      tells (after p [.read 0 0 2 99, .intakeHeadResolution]) 0 .refused .range 2 100 ∧
      tells (after (inPart .bare one) [.read 0 0 2 99, .intakeHeadResolution]) 0 .refused .noMap 2 0 ∧
      tells (after one [.wpnAsserted, .write 0 0 2 99, .intakeHeadResolution]) 0 .refused .fenced 2 0 ∧
      (go one .intakeHeadResolution).rqt.intake = [] := by decide +kernel

/-- R65, R72, R80: a port goes DOWN with a READ at media, and a WRITE and a VERIFY behind it: each owner takes PORT_DOWN; the
offsets of a grant that goes with its piece are withdrawn. -/
theorem test_queueFails :
    let s := after one [.read 0 0 1 0, .write 1 0 9 1, .verify 3 0 1 50]
    let g := go writing (.presentnReleased 0)
    queueOf 0 (settle s) = [0, 1, 2, 3] ∧ (portOf 0 (settle s)).state = .ready ∧
      told (go s (.presentnReleased 0)) = [(0, .failed, .portDown), (1, .failed, .portDown), (3, .failed, .portDown)] ∧
      writing.ulc.grants.length = 1 ∧ g.ulc.withdrawn[(0 : Tag)] = [0, 1, 2, 3, 4, 5, 6, 7] := by decide +kernel

/-- R48, R76, R88, R93: an FL piece that ends TIMEOUT, one that takes an ERROR with offline pending, and a NOT_READY
with a bad check word or while no piece is at media. -/
theorem test_flushFaults :
    let s := settle (go one (.flush 5 0))
    (portOf 0 s).outstanding = some (.piece 0 .fl false) ∧
      ((entryOf 5 s).map fun e => (e.kind, e.state, e.waitSet)) = some (.flush, .active, []) ∧
      told (go s (.pieceTimerExpiry 0)) = [(5, .failed, .timeout)] ∧
      told (after s [.portOffline 8 7 0, .mediaStsError 0 true 0 .range]) =
        [(5, .failed, .media), (8, .good, .none)] ∧
      (portOf 0 (go s (.mediaStsNotReady 0 false))).faults = 0 ∧ (portOf 1 (go s (.mediaStsNotReady 1 true))).faults = 0 ∧
      (portOf 1 s).pieceTimer = none ∧ (portOf 1 (go s (.pieceTimerExpiry 1))).state = .ready := by decide +kernel

/-- R121: the map of one extent passes every test. -/
theorem test_mapOfOnePasses : ∀ j, ¬RecordFails one.xmp.active j := by unfold RecordFails; decide +kernel

/-- R15: the manual's example of a WRITE that meets a moving extent. -/
theorem test_movingExample :
    let s := runs [{ ext 1 0 1000 500 20000 with moving := true }, ext 1 1 1500 100 0 true]
    let m : Move := ⟨false, 9, 1, 1000, 500, 0, 20000, 2, 7000, false, 296, some ⟨8, .cut⟩, none, [], [], []⟩
    ((entryOf 0 (after (s.setMve (some m)) [.write 0 1 240 1290, .intakeHeadResolution])).map (·.segments)) =
      some [⟨0, 6, 0, 20290, false, .dual 2 7290⟩, ⟨6, 8, 0, 20296, false, .dualAfterChunk 2 7296⟩,
        ⟨14, 196, 0, 20304, false, .single⟩, ⟨210, 30, 1, 0, true, .single⟩] := by decide +kernel

/-- A part with 8 extents of 1 block and a part with 90 segment records in use. -/
def crowded : State :=
  let s := runs ((List.range 8).map fun i => ext 0 0 i 1 (10 * i))
  setEntry 9 (some { freshEntry .active .read 0 0 90 0 0 0 [] with
    segments := List.replicate 90 ⟨0, 1, 0, 0, false, .single⟩, cutSeg := 90, notEnded := 1 }) s

/-- R17: 6 segments fit the pool and 7 wait. -/
theorem test_segments : freeSegments crowded = 6 ∧
    (after crowded [.read 0 0 6 0, .intakeHeadResolution]).rqt.active = [0] ∧
    (after crowded [.read 0 0 7 0, .intakeHeadResolution]).rqt.intake = [0] := by decide +kernel

/-- A READ of 20 blocks that has been resolved and not cut. -/
def resolved : State := after one [.read 0 0 20 80, .intakeHeadResolution]

/-- A part with `n` free piece records, the lowest being `48 - n`. -/
def withFree (n : Nat) (s : State) : State :=
  s.setPsc { s.psc with pieces := ⟨⟨(List.range 48).map fun i => if i < 48 - n then
    some ⟨.discard, .rd, 3, 0, 1, 0, false, [], .atMedia, [], none, none⟩ else none⟩, by simp⟩ }

/-- R54 to R57: a cut of 8 and of the rest; 4 and 5 free records; a port out of service. -/
theorem test_cut :
    running resolved = true ∧ resolved.rqt.active = [0] ∧ LowestFree 0 resolved ∧
      ((entryOf 0 resolved).map fun e => (cuttable e, e.segments, e.cutSeg, e.cutOff)) =
        some (true, [⟨0, 20, 0, 80, false, .single⟩], 0, 0) ∧
      ((pieceOf 2 (after resolved [.cutEvent, .cutEvent, .cutEvent])).map fun q => (q.start, q.count, q.offset)) =
        some (96, 4, 16) ∧
      pieceOf 43 (go (withFree 5 resolved) .cutEvent) ≠ none ∧ LowestFree 43 (withFree 5 resolved) ∧
      pieceOf 44 (go (withFree 4 resolved) .cutEvent) = none ∧
      tells (after (go one (.portOffline 1 7 0)) [.read 0 0 9 0, .intakeHeadResolution, .cutEvent]) 0 .failed
        .portOffline 9 0 := by unfold LowestFree; decide +kernel

/-- R18, R47, R48: a FLUSH that waits, one refused, one with no port, and one cut on its ports in turn. -/
theorem test_flush :
    let wait := after one [.write 0 0 1 0, .flush 2 0]
    let bare := go (inPart .bare one) (.flush 2 0)
    let two := go (runs [ext 0 1 0 10 0, ext 0 3 10 10 0]) (.flush 2 0)
    let act := go two .flushResolution
    ((entryOf 2 wait).map (·.waitSet)) = some [0] ∧ (settlePrompt wait).rqt.barrier = [2] ∧
      bare.rqt.barrier = [2] ∧ tells (go bare .flushResolution) 2 .refused .noMap 0 0 ∧
      tells (after one [.flush 2 1, .flushResolution]) 2 .good .none 0 0 ∧
      running two = true ∧ two.rqt.barrier = [2] ∧ ((entryOf 2 two).map (·.waitSet)) = some [] ∧
      act.rqt.flushing = [2] ∧ ((entryOf 2 act).map (·.flPorts)) = some [(1, .uncut), (3, .uncut)] ∧
      LowestFree 0 act ∧ one.rqt.flushing = [] ∧
      ((entryOf 2 (after act [.flPieceCut, .flPieceCut])).map (·.flPorts)) = some [(1, .cut), (3, .cut)] := by
  unfold LowestFree; decide +kernel

/-- R57, R48: an FL piece cut for a port out of service fails the FLUSH, which cuts no more. -/
theorem test_flCutFails :
    let s := after (runs [ext 0 0 0 10 0, ext 0 1 10 10 0]) [.portOffline 1 7 0, .flush 5 0, .flushResolution]
    ¬inService 0 s ∧ s.rqt.flushing = [5] ∧ LowestFree 0 s ∧
      ((entryOf 5 s).map (·.flPorts)) = some [(0, .uncut), (1, .uncut)] ∧
      tells (go s .flPieceCut) 5 .failed .portOffline 0 0 := by unfold inService LowestFree; decide +kernel

/-- A part with `n` free slots. -/
def withSlots (n : Nat) (s : State) : State := s.setSpa { s.spa with free := (List.finRange 32).take n }

/-- R61, R62: a claim that fits exactly, one that does not, a claim passed over for the fourth time, and the reserve. -/
theorem test_slots :
    let w := settle (after (withSlots 0 (runs [ext 0 0 0 100 0, ext 1 1 0 100 0])) [.write 0 1 4 0, .write 1 0 8 0])
    let a := withSlots 8 w
    let b := a.setSpa { a.spa with passOver := #v[3, 0, 0, 0] }
    running a = true ∧ claimOf 0 a = some 8 ∧ claimOf 1 a = some 4 ∧ a.spa.reserve = [] ∧
      rotation a.spa.pointer = [1, 2, 3, 0] ∧
      ((headOf 1 a).map fun x => (x.1, x.2.kind, x.2.owner)) = some (0, .wr, .tag 0) ∧
      (go a .slotGrant).spa.pointer = 1 ∧ (go a .slotGrant).spa.passOver = #v[1, 0, 0, 0] ∧
      (go b .slotGrant).spa.reserve = [0] ∧ (go (withSlots 3 w) .slotGrant).spa.free.length = 3 ∧
      (go (withSlots 7 (w.setSpa { w.spa with reserve := [0] })) .slotGrant).spa.free.length = 7 ∧
      (go (withSlots 8 (w.setSpa { w.spa with reserve := [0] })) .slotGrant).spa.pointer = 0 := by decide +kernel

/-- R62: two ports reach 4 at one grant and take the reserve in rotating order from the port granted; a port that waits in
the order keeps its place when its claim would fit. -/
theorem test_reserveOrder :
    let es := [ext 0 0 0 100 0, ext 1 1 0 100 0, ext 2 2 0 100 0]
    let w := settle (after (withSlots 0 (runs es)) [.write 0 0 8 0, .write 1 1 4 0, .write 2 2 8 0])
    let a := (withSlots 8 w).setSpa { (withSlots 8 w).spa with passOver := #v[3, 0, 3, 0] }
    let b := (withSlots 16 w).setSpa { (withSlots 16 w).spa with passOver := #v[4, 0, 4, 0], reserve := [2, 0] }
    (allPorts.map fun p => claimOf p a) = [some 8, some 4, some 8, none] ∧ (go a .slotGrant).spa.pointer = 1 ∧
      (go a .slotGrant).spa.reserve = [2, 0] ∧ (go b .slotGrant).spa.pointer = 2 ∧ (go b .slotGrant).spa.reserve = [0] := by
  decide +kernel

/-- R61, R62: the holder of the reserve loses its claim as its unit goes: the reserve passes to the next port at 4 with a
claim, whose count a link reset may have kept; a port at 4 without a claim is passed by. -/
theorem test_reservePasses :
    let es := [ext 0 0 0 100 0, ext 1 1 0 100 0, ext 2 2 0 100 0]
    let w := settle (after (withSlots 0 (runs es)) [.write 0 0 8 0, .write 1 2 8 0])
    let s := w.setSpa { w.spa with passOver := #v[4, 4, 4, 0], reserve := [0] }
    (allPorts.map fun p => claimOf p s) = [some 8, none, some 8, none] ∧ s.spa.reserve = [0] ∧
      (go s (.presentnReleased 0)).spa.reserve = [2] ∧ (go s (.presentnReleased 0)).spa.passOver = #v[0, 4, 4, 0] ∧
      (go s (.cancel 0)).spa.reserve = [2] := by decide +kernel

/-- R100 to R102: a chunk in HELD with an empty and a filled blocking set, and in CLAIM with and without a FLUSH. -/
theorem test_chunks :
    let s := go one (.move 3 7 0 1 0 500)
    let c := go s .blockingSetEmpties
    let blocked := s.setMve (s.mve.map fun m => { m with blocking := [7] })
    running s = true ∧ (s.mve.map fun m => (m.chunk, m.blocking)) = some (some ⟨8, .held⟩, []) ∧
      (c.mve.map (·.chunk)) = some (some ⟨8, .claim⟩) ∧ c.rqt.flushing = [] ∧ LowestFree 0 c ∧ inService 0 c ∧
      ((go c .cpPieceCut).mve.map (·.piece)) = some (some 0) ∧
      (blocked.mve.map (·.blocking)) = some [7] ∧ one.mve = none ∧
      ((go (c.setRqt { c.rqt with flushing := [8] }) .cpPieceCut).mve.map (·.piece)) = some none := by
  unfold LowestFree inService; decide +kernel

/-- R54, R100 to R102: the two commands without a chunk, with it in CUT, and in CLAIM with no record free. -/
theorem test_chunkStands :
    let c := after one [.move 3 7 0 1 0 500, .blockingSetEmpties]
    let cut := go c .cpPieceCut
    let none' := c.setMve (c.mve.map fun m => { m with chunk := none })
    (∀ i ∈ [Instr.blockingSetEmpties, .cpPieceCut], (go cut i).mve = cut.mve ∧ (go none' i).mve = none'.mve) ∧
      (cut.mve.map (·.chunk)) = some (some ⟨8, .cut⟩) ∧ (go c .blockingSetEmpties).mve = c.mve ∧
      (∀ id, pieceOf id (withFree 0 c) ≠ none) ∧ (go (withFree 0 c) .cpPieceCut).mve = c.mve := by decide +kernel

/-- R48, R54: a FLUSH whose next FL piece waits for a record. -/
theorem test_flushStands :
    let f := withFree 0 (after one [.flush 2 0, .flushResolution])
    f.rqt.flushing = [2] ∧ (∀ id, pieceOf id f ≠ none) ∧ (go f .flPieceCut).rqt.flushing = [2] := by decide +kernel

/-- R106, R107: a MOVE at its length with a store operation in progress waits, and without one it switches. -/
theorem test_switch :
    let s := go one (.move 3 7 0 1 0 500)
    let d := s.setMve (s.mve.map fun m => { m with cursor := 100, chunk := none, pending := true })
    running d = true ∧ (d.mve.map fun m => (m.cursor, m.length, m.dual)) = some (100, 100, []) ∧ d.mst.op = .idle ∧
      tells (go d .moveSwitch) 3 .good .none 0 0 ∧ (go d .moveSwitch).xmp.active[(0 : Fin 64)] = ext 0 1 0 100 500 ∧
      ((go s .moveSwitch).mve.map (·.cursor)) = some 0 ∧
      ((go (d.setMst (saving .opening).mst) .moveSwitch).mve.map (·.cursor)) = some 100 := by decide +kernel

/-- R59: a head that is sent, one that waits for slots, and ports that serve no head. -/
theorem test_heads :
    let q := after resolved [.cutEvent]
    headOf 1 one = none ∧ ((headOf 0 q).map fun x => (x.2.kind, x.2.state, x.2.slots)) = some (.rd, .queued, []) ∧
      (portOf 0 q).outstanding = none ∧ (portOf 0 q).offlinePending = .no ∧
      (portOf 0 (go q .slotGrant)).outstanding = some (.piece 0 .rd false) ∧
      ((headOf 0 writing).map fun x => (x.2.state, x.2.filled)) = some (.filling, []) ∧
      (portOf 0 (after writing (dataFrames 0 0 8))).outstanding = some (.piece 0 .wr false) ∧
      (portOf 1 copied).outstanding = some (.piece 0 .wr true) := by decide +kernel

/-! ### Witness: the invariant -/

theorem test_soundStep : (PortsSound one ∧ SupervisionSound one ∧ StagingSound one) ∧
    (step (one.setPending [.linkReset])) = .next (go one .linkReset) := by
  refine ⟨?_, rfl⟩
  unfold PortsSound SupervisionSound StagingSound Port.Sound; decide +kernel

end Sys2Proof.Tests
end

section
/-! SUPPORT. The length of the successful prefix (R33): the run of done offsets is within its bound, holds only done
offsets, and stops short of the bound only at an offset that is not done. -/

namespace Sys2Proof.Machine

theorem doneRun_succ_of_mem {done : List Nat} {k : Nat} (h : k ∈ done) (n : Nat) :
    doneRun done (n + 1) k = doneRun done n (k + 1) + 1 := if_pos h

theorem doneRun_succ_of_notMem {done : List Nat} {k : Nat} (h : k ∉ done) (n : Nat) :
    doneRun done (n + 1) k = 0 := if_neg h

theorem doneRun_le (done : List Nat) (n k : Nat) : doneRun done n k ≤ n := by
  induction n generalizing k with
  | zero => exact Nat.le_refl 0
  | succ n ih =>
    by_cases hk : k ∈ done
    · rw [doneRun_succ_of_mem hk]
      exact Nat.succ_le_succ (ih (k + 1))
    · rw [doneRun_succ_of_notMem hk]
      exact Nat.zero_le _

theorem mem_done_of_lt_doneRun {done : List Nat} {n k j : Nat} (hj : j < doneRun done n k) : k + j ∈ done := by
  induction n generalizing k j with
  | zero => exact absurd hj (Nat.not_lt_zero j)
  | succ n ih =>
    by_cases hk : k ∈ done
    · rw [doneRun_succ_of_mem hk] at hj
      cases j with
      | zero => exact hk
      | succ j =>
        have hrest : k + 1 + j ∈ done := ih (Nat.lt_of_succ_lt_succ hj)
        rwa [Nat.add_right_comm] at hrest
    · rw [doneRun_succ_of_notMem hk] at hj
      exact absurd hj (Nat.not_lt_zero j)

theorem add_doneRun_notMem {done : List Nat} {n k : Nat} (hn : doneRun done n k < n) :
    k + doneRun done n k ∉ done := by
  induction n generalizing k with
  | zero => exact absurd hn (Nat.not_lt_zero _)
  | succ n ih =>
    by_cases hk : k ∈ done
    · rw [doneRun_succ_of_mem hk] at hn ⊢
      have hrest : k + 1 + doneRun done n (k + 1) ∉ done := ih (Nat.lt_of_succ_lt_succ hn)
      rwa [Nat.add_right_comm] at hrest
    · rwa [doneRun_succ_of_notMem hk]

/-- Settles O57: the run from offset 0 is the successful prefix of R33. -/
theorem remainingIsBeyondPrefix : Obligations.RemainingIsBeyondPrefix := by
  intro e
  refine ⟨doneRun e.done e.count 0, doneRun_le e.done e.count 0, fun k hk => ?_, fun hn => ?_, rfl⟩
  · simpa using mem_done_of_lt_doneRun hk
  · simpa using add_doneRun_notMem hn

end Sys2Proof.Machine
end

section
/-! SUPPORT. Validation of a table (R121): the tests of one record against the records below it, written over the list
that the model reads and over the indexes of the table, and the lowest index at which one of them fails. -/

namespace Sys2Proof.Machine

/-! ### The records below an index -/

theorem forall_mem_take_iff (m : ExtMap) (i : Fin 64) (P : Extent → Prop) :
    (∀ b ∈ m.toList.take i.val, P b) ↔ ∀ j : Fin 64, j < i → P m[j] := by
  constructor
  · intro h j hj
    exact h _ (List.mem_take_iff_getElem.2 ⟨j.val, by simp only [Vector.length_toList]; omega, by simp⟩)
  · intro h b hb
    obtain ⟨k, hk, rfl⟩ := List.mem_take_iff_getElem.1 hb
    have hlt : k < i.val := (Nat.lt_min.1 hk).1
    simpa using h ⟨k, Nat.lt_trans hlt i.isLt⟩ hlt

theorem forall_mem_getLast?_take_iff (m : ExtMap) (i : Fin 64) (P : Extent → Prop) :
    (∀ b ∈ (m.toList.take i.val).getLast?, P b) ↔ ∀ j : Fin 64, j.val + 1 = i.val → P m[j] := by
  obtain ⟨i, hi⟩ := i
  cases i with
  | zero => simp
  | succ k =>
    have hlast : (m.toList.take (k + 1)).getLast? = some m[k] := by
      simp [List.getLast?_take, Nat.lt_of_succ_lt hi]
    constructor
    · rintro h ⟨j, hj⟩ hjk
      obtain rfl : j = k := Nat.succ.inj hjk
      exact h _ hlast
    · intro h b hb
      obtain rfl : m[k] = b := Option.some.inj (hlast.symm.trans hb)
      exact h ⟨k, Nat.lt_of_succ_lt hi⟩ rfl

/-! ### The tests of a used record -/

/-- R121: a used record passes the field-code test. -/
def CodesNameValues (e : Extent) : Prop :=
  e.unit.toNat ≤ 3 ∧ e.port.toNat ≤ 3 ∧ e.length ≠ 0 ∧ e.policy ≠ 3

/-- R121: a used record passes the ends test. -/
def EndsFit (e : Extent) : Prop := logicalStop e ≤ 4294967296 ∧ physicalStop e ≤ 4294967296

/-- R121: a record passes the order and the logical overlap test against the record before it. -/
def Follows (b e : Extent) : Prop :=
  (b.unit.toNat < e.unit.toNat ∨ b.unit = e.unit ∧ b.lstart.toNat < e.lstart.toNat) ∧
    ¬(b.unit = e.unit ∧ e.lstart.toNat < logicalStop b)

/-- R121: a record passes the physical overlap test against a record below it. -/
def PhysicallyApart (b e : Extent) : Prop :=
  ¬(b.used = 1 ∧ b.port = e.port ∧ b.pstart.toNat < physicalStop e ∧ e.pstart.toNat < physicalStop b)

theorem fieldCodesGood_iff_of_used {e : Extent} (he : e.used = 1) :
    fieldCodesGood e = true ↔ CodesNameValues e := by
  have hone : (1 : Byte) ≠ 0 := by decide
  simp only [fieldCodesGood, CodesNameValues, he, hone, Bool.and_eq_true, Bool.or_eq_true, decide_eq_true_eq,
    false_or, true_and, and_assoc]

theorem orderTest_iff (b e : Extent) :
    ((b.unit.toNat < e.unit.toNat || (b.unit = e.unit && b.lstart.toNat < e.lstart.toNat)) &&
      !(b.unit = e.unit && e.lstart.toNat < logicalStop b)) = true ↔ Follows b e := by
  simp only [Follows, Bool.and_eq_true, Bool.or_eq_true, Bool.not_eq_true', ← Bool.not_eq_true, decide_eq_true_eq]

theorem physicalTest_iff (b e : Extent) :
    (!(isUsed b && b.port = e.port &&
      rangesMeet b.pstart.toNat (physicalStop b) e.pstart.toNat (physicalStop e))) = true ↔ PhysicallyApart b e := by
  simp only [PhysicallyApart, isUsed, rangesMeet, Bool.not_eq_true', ← Bool.not_eq_true, Bool.and_eq_true,
    decide_eq_true_eq, and_assoc]

theorem recordGood_iff_of_used {e : Extent} (he : e.used = 1) (below : List Extent) :
    recordGood below e = true ↔ CodesNameValues e ∧ (∀ b ∈ below, b.used = 1) ∧ EndsFit e ∧
      (∀ b ∈ below.getLast?, Follows b e) ∧ ∀ b ∈ below, PhysicallyApart b e := by
  have hunused : e.used ≠ 0 := he ▸ by decide
  have hcontiguous : below.all isUsed = true ↔ ∀ b ∈ below, b.used = 1 := by
    simp only [List.all_eq_true, isUsed, decide_eq_true_eq]
  have hapart : (below.all fun b => !(isUsed b && b.port = e.port &&
      rangesMeet b.pstart.toNat (physicalStop b) e.pstart.toNat (physicalStop e))) = true ↔
      ∀ b ∈ below, PhysicallyApart b e := by
    simp only [List.all_eq_true, physicalTest_iff]
  simp only [recordGood, Bool.and_eq_true, Bool.or_eq_true, decide_eq_true_eq, hunused, false_or,
    fieldCodesGood_iff_of_used he, hcontiguous, hapart, EndsFit]
  cases below.getLast? with
  | none => simp only [Option.mem_def, reduceCtorEq, false_implies, implies_true, and_true, true_and, and_assoc]
  | some b => simp only [orderTest_iff, Option.mem_def, Option.some.injEq, forall_eq', and_assoc]

theorem recordGood_iff_of_not_used {e : Extent} (he : e.used ≠ 1) (below : List Extent) :
    recordGood below e = true ↔ e.used = 0 := by
  simp only [recordGood, fieldCodesGood, he, Bool.and_eq_true, Bool.or_eq_true, decide_eq_true_eq, decide_false,
    Bool.false_and, Bool.or_false]
  exact and_iff_left_of_imp Or.inl

theorem not_codesNameValues_iff (e : Extent) :
    ¬CodesNameValues e ↔ 3 < e.unit.toNat ∨ 3 < e.port.toNat ∨ e.length = 0 ∨ e.policy = 3 := by
  simp only [CodesNameValues, Classical.not_and_iff_not_or_not, Nat.not_le, ne_eq, Classical.not_not]

theorem not_endsFit_iff (e : Extent) : ¬EndsFit e ↔
    4294967295 < e.lstart.toNat + e.length.toNat - 1 ∨ 4294967295 < e.pstart.toNat + e.length.toNat - 1 := by
  unfold EndsFit logicalStop physicalStop
  omega

/-- The test of R121 reads the last logical block of the record before, the model one past it. They differ on an empty
range at block 0 alone, which fails the order test. -/
theorem not_follows_iff (b e : Extent) :
    ¬Follows b e ↔ ¬(b.unit.toNat < e.unit.toNat ∨ b.unit = e.unit ∧ b.lstart.toNat < e.lstart.toNat) ∨
      b.unit = e.unit ∧ e.lstart.toNat ≤ b.lstart.toNat + b.length.toNat - 1 := by
  unfold Follows logicalStop
  by_cases hunit : b.unit = e.unit
  · simp only [hunit, true_and]
    omega
  · simp only [hunit, false_and, or_false, not_false_eq_true, and_true]

theorem not_physicallyApart_iff (b e : Extent) :
    ¬PhysicallyApart b e ↔ b.used = 1 ∧ b.port = e.port ∧
      b.pstart.toNat < e.pstart.toNat + e.length.toNat ∧ e.pstart.toNat < b.pstart.toNat + b.length.toNat :=
  Classical.not_not

theorem recordFails_iff_of_used {m : ExtMap} {i : Fin 64} (hi : m[i].used = 1) :
    RecordFails m i ↔ ¬CodesNameValues m[i] ∨ (∃ j : Fin 64, j < i ∧ m[j].used = 0) ∨ ¬EndsFit m[i] ∨
      (∃ j : Fin 64, j.val + 1 = i.val ∧ ¬Follows m[j] m[i]) ∨
      ∃ j : Fin 64, j < i ∧ ¬PhysicallyApart m[j] m[i] := by
  simp only [RecordFails, ne_eq, not_true_eq_false, and_false, false_or, not_codesNameValues_iff, not_endsFit_iff,
    not_follows_iff, not_physicallyApart_iff, hi, true_and]

theorem recordFails_iff_of_not_used {m : ExtMap} {i : Fin 64} (hi : m[i].used ≠ 1) :
    RecordFails m i ↔ m[i].used ≠ 0 := by
  simp only [RecordFails, hi, false_and, or_false, ne_eq, not_false_eq_true, and_true]

theorem used_eq_one_iff_of_not_recordFails {m : ExtMap} {i : Fin 64} (hi : ¬RecordFails m i) :
    m[i].used = 1 ↔ m[i].used ≠ 0 := by
  by_cases hused : m[i].used = 1
  · exact iff_of_true hused (hused ▸ by decide)
  · exact iff_of_false hused (mt (recordFails_iff_of_not_used hused).2 hi)

/-! ### The lowest failure of a table -/

/-- Above records that pass, the test of the model is that of R121. -/
theorem recordGood_take_iff {m : ExtMap} {i : Fin 64} (hbelow : ∀ j : Fin 64, j < i → ¬RecordFails m j) :
    recordGood (m.toList.take i.val) m[i] = true ↔ ¬RecordFails m i := by
  by_cases hi : m[i].used = 1
  · have hcontiguous : (∀ j : Fin 64, j < i → m[j].used = 1) ↔ ∀ j : Fin 64, j < i → m[j].used ≠ 0 :=
      forall₂_congr fun j hj => used_eq_one_iff_of_not_recordFails (hbelow j hj)
    rw [recordGood_iff_of_used hi, recordFails_iff_of_used hi, forall_mem_take_iff, forall_mem_take_iff,
      forall_mem_getLast?_take_iff, hcontiguous]
    simp only [not_or, not_exists, not_and, Classical.not_not, ne_eq]
  · rw [recordGood_iff_of_not_used hi, recordFails_iff_of_not_used hi, Classical.not_not]

/-- R121: what validation answers: the lowest index whose record fails, or none where every record passes. -/
def LowestFailure (m : ExtMap) : Option Nat → Prop
  | some i => ∃ h : i < 64, RecordFails m ⟨i, h⟩ ∧ ∀ j : Fin 64, j.val < i → ¬RecordFails m j
  | none => ∀ j : Fin 64, ¬RecordFails m j

theorem LowestFailure.unique {m : ExtMap} {a b : Option Nat} (ha : LowestFailure m a) (hb : LowestFailure m b) :
    a = b := by
  cases a with
  | none =>
    cases b with
    | none => rfl
    | some k => exact absurd hb.2.1 (ha _)
  | some i =>
    obtain ⟨hi, hfails, hlow⟩ := ha
    cases b with
    | none => exact absurd hfails (hb _)
    | some k =>
      obtain ⟨hk, hfails', hlow'⟩ := hb
      have hik : ¬k < i := fun h => hlow ⟨k, hk⟩ h hfails'
      have hki : ¬i < k := fun h => hlow' ⟨i, hi⟩ h hfails
      rw [Nat.le_antisymm (Nat.le_of_not_lt hik) (Nat.le_of_not_lt hki)]

theorem firstBadFrom_lowestFailure {m : ExtMap} {below rest : List Extent} (hm : m.toList = below ++ rest)
    (hbelow : ∀ j : Fin 64, j.val < below.length → ¬RecordFails m j) :
    LowestFailure m (firstBadFrom below rest) := by
  induction rest generalizing below with
  | nil =>
    have hlen : below.length = 64 := by simpa using (congrArg List.length hm).symm
    exact fun j => hbelow j (Nat.lt_of_lt_of_eq j.isLt hlen.symm)
  | cons e rest ih =>
    have hlt : below.length < 64 := by
      have hlen := congrArg List.length hm
      simp only [Vector.length_toList, List.length_append, List.length_cons] at hlen
      omega
    have htake : m.toList.take below.length = below := by simp [hm]
    have hget : m[below.length] = e := by
      simp [← Vector.getElem_toList, hm]
    have htest : recordGood below e = true ↔ ¬RecordFails m ⟨below.length, hlt⟩ := by
      simpa [htake, hget] using recordGood_take_iff (i := ⟨below.length, hlt⟩) hbelow
    by_cases hgood : recordGood below e = true
    · rw [firstBadFrom, if_pos hgood]
      refine ih (by simp [hm]) fun j hj => ?_
      rcases Nat.lt_succ_iff_lt_or_eq.1 (by simpa using hj : j.val < below.length + 1) with hlow | hlast
      · exact hbelow j hlow
      · obtain rfl : j = ⟨below.length, hlt⟩ := Fin.ext hlast
        exact htest.1 hgood
    · rw [firstBadFrom, if_neg hgood]
      exact ⟨hlt, Classical.not_not.1 (mt htest.2 hgood), hbelow⟩

theorem firstBadIndex_eq_iff (m : ExtMap) (r : Option Nat) : firstBadIndex m = r ↔ LowestFailure m r := by
  have hfirst : LowestFailure m (firstBadIndex m) :=
    firstBadFrom_lowestFailure rfl fun j hj => absurd hj (Nat.not_lt_zero _)
  exact ⟨fun h => h ▸ hfirst, hfirst.unique⟩

/-- Settles O17: the scan of validation stops at the lowest failure. -/
theorem firstBadIndexIsLowest : Obligations.FirstBadIndexIsLowest :=
  fun m => ⟨fun i => firstBadIndex_eq_iff m (some i), firstBadIndex_eq_iff m none⟩

end Sys2Proof.Machine
end

section
/-! SUPPORT. Reading a record that is given byte by byte: one byte, and the little-endian fields of 16 and 32 bits. -/

namespace Sys2Proof.Machine

@[simp] theorem length_bytesOf (n : Nat) (f : Nat → Byte) : (bytesOf n f).toList.length = n := Vector.length_toList

theorem toList_bytesOf (n : Nat) (f : Nat → Byte) : (bytesOf n f).toList = (List.range n).map f := rfl

theorem byteAt_bytesOf {n i : Nat} (hi : i < n) (f : Nat → Byte) : byteAt (bytesOf n f).toList i = f i := by
  simp [byteAt, toList_bytesOf, hi]

theorem byteAt_bytesOf_of_le {n i : Nat} (hi : n ≤ i) (f : Nat → Byte) : byteAt (bytesOf n f).toList i = 0 := by
  simp [byteAt, toList_bytesOf, hi]

theorem forall_lt_four {P : Nat → Prop} (h0 : P 0) (h1 : P 1) (h2 : P 2) (h3 : P 3) (k : Nat) (hk : k < 4) : P k :=
  match k, hk with
  | 0, _ => h0
  | 1, _ => h1
  | 2, _ => h2
  | 3, _ => h3

theorem leByte_succ (v k : Nat) : leByte v (k + 1) = leByte (v / 256) k := by
  rw [leByte, leByte, Nat.pow_succ', Nat.div_div_eq_div_mul]

theorem leNat_take_succ (bs : List Byte) (i n : Nat) :
    leNat ((bs.drop i).take (n + 1)) = (byteAt bs i).toNat + 256 * leNat ((bs.drop (i + 1)).take n) := by
  by_cases hi : i < bs.length
  · rw [List.drop_eq_getElem_cons hi, List.take_succ_cons, leNat]
    simp [byteAt, hi]
  · have hlen : bs.length ≤ i := Nat.le_of_not_lt hi
    simp [leNat, byteAt, List.drop_eq_nil_of_le, hlen, Nat.le_succ_of_le hlen]

theorem leNat_take_eq {bs : List Byte} {i n v : Nat} (h : ∀ k < n, byteAt bs (i + k) = leByte v k) :
    leNat ((bs.drop i).take n) = v % 256 ^ n := by
  induction n generalizing i v with
  | zero => simp [leNat, Nat.mod_one]
  | succ n ih =>
    have hhead : (byteAt bs i).toNat = v % 256 := by simpa [leByte] using congrArg BitVec.toNat (h 0 n.succ_pos)
    have htail : leNat ((bs.drop (i + 1)).take n) = v / 256 % 256 ^ n := ih fun k hk => by
      rw [← leByte_succ, Nat.add_assoc, Nat.add_comm 1]
      exact h (k + 1) (Nat.succ_lt_succ hk)
    rw [leNat_take_succ, hhead, htail, Nat.pow_succ', Nat.mod_mul]

theorem halfAt_bytesOf {n i v : Nat} {f : Nat → Byte} (hi : i + 2 ≤ n) (h : ∀ k < 2, f (i + k) = leByte v k) :
    halfAt (bytesOf n f).toList i = BitVec.ofNat 16 v := by
  have hle : leNat (((bytesOf n f).toList.drop i).take 2) = v % 2 ^ 16 := leNat_take_eq fun k hk => by
    rw [byteAt_bytesOf (by omega), h k hk]
  rw [halfAt, hle]
  exact BitVec.eq_of_toNat_eq (by simp)

theorem wordAt_bytesOf {n i v : Nat} {f : Nat → Byte} (hi : i + 4 ≤ n) (h : ∀ k < 4, f (i + k) = leByte v k) :
    wordAt (bytesOf n f).toList i = BitVec.ofNat 32 v := by
  have hle : leNat (((bytesOf n f).toList.drop i).take 4) = v % 2 ^ 32 := leNat_take_eq fun k hk => by
    rw [byteAt_bytesOf (by omega), h k hk]
  rw [wordAt, hle]
  exact BitVec.eq_of_toNat_eq (by simp)

end Sys2Proof.Machine
end

section
/-! SUPPORT. The status record and the identify record (R182): which bytes each part of the record fills, and what
these bytes hold. -/

namespace Sys2Proof.Machine

/-! ### Bytes that hold flags and codes -/

@[simp] theorem toNat_bit (x : Bool) : (bit x).toNat = if x then 1 else 0 := by cases x <;> rfl

theorem toNat_bit_or_bit (x y : Bool) :
    (bit x ||| (bit y <<< 1)).toNat = (if x then 1 else 0) + (if y then 2 else 0) := by
  cases x <;> cases y <;> rfl

theorem toNat_flagsByte (f : ChangeFlags) :
    (flagsByte f).toNat = (if f.start then 1 else 0) + (if f.port then 2 else 0) + (if f.store then 4 else 0) +
      (if f.link then 8 else 0) + (if f.fence then 16 else 0) := by
  obtain ⟨start, port, store, link, fence⟩ := f
  revert start port store link fence
  decide

theorem toNat_ofNat_fin {n : Nat} (hn : n ≤ 256) (x : Fin n) : (BitVec.ofNat 8 x.val).toNat = x.val := by
  rw [BitVec.toNat_ofNat, Nat.mod_eq_of_lt (Nat.lt_of_lt_of_le x.isLt hn)]

/-! ### The bytes of the status record -/

theorem byteAt_statusRecord {i : Nat} (hi : i < 512) (s : State) : byteAt (statusRecord s).toList i = statusByte s i :=
  byteAt_bytesOf hi _

theorem statusByte_of_le {i : Nat} (hi : 12 ≤ i) (s : State) :
    statusByte s i = if i < 16 then 0
      else if i < 48 then portStatusByte (portOf (Fin.ofNat 4 ((i - 16) / 8)) s) ((i - 16) % 8)
      else if i < 64 then moveStatusByte s.mve (i - 48) else storeStatusByte s (i - 64) := by
  obtain ⟨n, rfl⟩ := Nat.exists_eq_add_of_le' hi
  rfl

theorem statusByte_port {j : Nat} (hj : j < 8) (p : PortId) (s : State) :
    statusByte s (16 + 8 * p.val + j) = portStatusByte (portOf p s) j := by
  have hp : Fin.ofNat 4 ((16 + 8 * p.val + j - 16) / 8) = p := Fin.ext (by simp only [Fin.val_ofNat]; omega)
  rw [statusByte_of_le (by omega), if_neg (by omega), if_pos (by omega), hp,
    show (16 + 8 * p.val + j - 16) % 8 = j by omega]

theorem statusByte_move {j : Nat} (hj : j < 16) (s : State) : statusByte s (48 + j) = moveStatusByte s.mve j := by
  rw [statusByte_of_le (by omega), if_neg (by omega), if_neg (by omega), if_pos (by omega), Nat.add_sub_cancel_left]

theorem statusByte_store (s : State) (j : Nat) : statusByte s (64 + j) = storeStatusByte s j := by
  rw [statusByte_of_le (by omega), if_neg (by omega), if_neg (by omega), if_neg (by omega), Nat.add_sub_cancel_left]

theorem byteAt_statusRecord_port {j : Nat} (hj : j < 8) (p : PortId) (s : State) :
    byteAt (statusRecord s).toList (16 + 8 * p.val + j) = portStatusByte (portOf p s) j := by
  rw [byteAt_statusRecord (by omega), statusByte_port hj]

theorem byteAt_statusRecord_move {j : Nat} (hj : j < 16) (s : State) :
    byteAt (statusRecord s).toList (48 + j) = moveStatusByte s.mve j := by
  rw [byteAt_statusRecord (by omega), statusByte_move hj]

theorem byteAt_statusRecord_store {j : Nat} (hj : j < 448) (s : State) :
    byteAt (statusRecord s).toList (64 + j) = storeStatusByte s j := by
  rw [byteAt_statusRecord (by omega), statusByte_store]

/-! ### The fields of the status record -/

theorem halfAt_statusRecord_generation (s : State) : halfAt (statusRecord s).toList 10 = s.xmp.generation := by
  rw [statusRecord, halfAt_bytesOf (v := s.xmp.generation.toNat) (by decide), BitVec.ofNat_toNat, BitVec.setWidth_eq]
  intro k hk
  match k, hk with
  | 0, _ => rfl
  | 1, _ => rfl

theorem portStatusByte_capacity (p : Port) : ∀ k < 4, portStatusByte p (4 + k) = leByte p.capacity.toNat k :=
  forall_lt_four rfl rfl rfl rfl

theorem wordAt_statusRecord_capacity (s : State) (p : PortId) :
    wordAt (statusRecord s).toList (20 + 8 * p.val) = (portOf p s).capacity := by
  rw [statusRecord, wordAt_bytesOf (v := (portOf p s).capacity.toNat) (by omega), BitVec.ofNat_toNat,
    BitVec.setWidth_eq]
  intro k hk
  rw [show 20 + 8 * p.val + k = 16 + 8 * p.val + (4 + k) by omega, statusByte_port (by omega),
    portStatusByte_capacity _ k hk]

theorem wordAt_statusRecord_move {s : State} {j v : Nat} (hj : j + 4 ≤ 16)
    (h : ∀ k < 4, moveStatusByte s.mve (j + k) = leByte v k) :
    wordAt (statusRecord s).toList (48 + j) = BitVec.ofNat 32 v :=
  wordAt_bytesOf (by omega) fun k hk => by rw [Nat.add_assoc, statusByte_move (by omega), h k hk]

theorem moveStatusByte_lstart (m : Move) : ∀ k < 4, moveStatusByte (some m) (4 + k) = leByte m.lstart k :=
  forall_lt_four rfl rfl rfl rfl

theorem moveStatusByte_dstStart (m : Move) : ∀ k < 4, moveStatusByte (some m) (8 + k) = leByte m.dstStart k :=
  forall_lt_four rfl rfl rfl rfl

theorem moveStatusByte_cursor (m : Move) : ∀ k < 4, moveStatusByte (some m) (12 + k) = leByte m.cursor k :=
  forall_lt_four rfl rfl rfl rfl

theorem byteAt_statusRecord_idle {s : State} (hs : s.mve = none) {k : Nat} (hlow : 48 ≤ k) (hhigh : k < 64) :
    byteAt (statusRecord s).toList k = 0 := by
  obtain ⟨j, rfl⟩ := Nat.exists_eq_add_of_le hlow
  rw [byteAt_statusRecord_move (by omega), hs, moveStatusByte]

theorem byteAt_statusRecord_moving {s : State} {m : Move} (hs : s.mve = some m) :
    let b := (statusRecord s).toList
    byteAt b 48 = (if m.pending then 2 else 1) ∧ byteAt b 49 = m.unit ∧ (byteAt b 50).toNat = m.dstPort.val ∧
      wordAt b 52 = BitVec.ofNat 32 m.lstart ∧ wordAt b 56 = BitVec.ofNat 32 m.dstStart ∧
      wordAt b 60 = BitVec.ofNat 32 m.cursor := by
  have hbyte {j : Nat} (hj : j < 16) : byteAt (statusRecord s).toList (48 + j) = moveStatusByte (some m) j :=
    hs ▸ byteAt_statusRecord_move hj s
  refine ⟨hbyte (j := 0) (by decide), hbyte (j := 1) (by decide), ?_, wordAt_statusRecord_move (j := 4) (by decide) ?_,
    wordAt_statusRecord_move (j := 8) (by decide) ?_, wordAt_statusRecord_move (j := 12) (by decide) ?_⟩
  · rw [hbyte (j := 2) (by decide)]
    exact toNat_ofNat_fin (by decide) m.dstPort
  · exact hs ▸ moveStatusByte_lstart m
  · exact hs ▸ moveStatusByte_dstStart m
  · exact hs ▸ moveStatusByte_cursor m

theorem bit_storeBusy (s : State) : bit (storeBusy s) = if s.mst.op = .idle then 0 else 1 := by
  by_cases hop : s.mst.op = .idle <;> simp [bit, storeBusy, hop]

theorem byteAt_statusRecord_noOperation {s : State} (hs : s.mst.lastOp = none) :
    let b := (statusRecord s).toList
    byteAt b 66 = 0 ∧ byteAt b 67 = 0 ∧ byteAt b 68 = 0 := by
  simp [byteAt_statusRecord_store (j := 2), byteAt_statusRecord_store (j := 3), byteAt_statusRecord_store (j := 4),
    storeStatusByte, hs]

theorem byteAt_statusRecord_lastOperation {s : State} {o : LastOp} (hs : s.mst.lastOp = some o) :
    let b := (statusRecord s).toList
    byteAt b 66 = storeKindCode o.kind ∧ byteAt b 67 = outcomeCode o.outcome ∧ byteAt b 68 = causeCode o.cause := by
  simp [byteAt_statusRecord_store (j := 2), byteAt_statusRecord_store (j := 3), byteAt_statusRecord_store (j := 4),
    storeStatusByte, hs]

/-! ### The bytes of the status record that no field fills -/

theorem byteAt_statusRecord_reserved {k : Nat} (hlow : 12 ≤ k) (hhigh : k < 16) (s : State) :
    byteAt (statusRecord s).toList k = 0 := by
  rw [byteAt_statusRecord (by omega), statusByte_of_le hlow, if_pos hhigh]

theorem byteAt_statusRecord_portGap (s : State) (p : PortId) :
    byteAt (statusRecord s).toList (18 + 8 * p.val) = 0 ∧ byteAt (statusRecord s).toList (19 + 8 * p.val) = 0 := by
  have hgap {j : Nat} (hj : j < 8) := byteAt_statusRecord_port hj p s
  rw [show 18 + 8 * p.val = 16 + 8 * p.val + 2 by omega, show 19 + 8 * p.val = 16 + 8 * p.val + 3 by omega]
  exact ⟨hgap (by decide), hgap (by decide)⟩

theorem byteAt_statusRecord_moveGap (s : State) : byteAt (statusRecord s).toList 51 = 0 := by
  rw [byteAt_statusRecord_move (j := 3) (by decide)]
  cases s.mve <;> rfl

theorem byteAt_statusRecord_tail {k : Nat} (hlow : 69 ≤ k) (s : State) : byteAt (statusRecord s).toList k = 0 := by
  by_cases hk : k < 512
  · obtain ⟨j, rfl⟩ := Nat.exists_eq_add_of_le hlow
    rw [show 69 + j = 64 + (j + 5) by omega, byteAt_statusRecord_store (by omega)]
    rfl
  · exact byteAt_bytesOf_of_le (Nat.le_of_not_lt hk) _

theorem byteAt_statusRecord_gaps (s : State) :
    ∀ k ∈ [12, 13, 14, 15, 18, 19, 26, 27, 34, 35, 42, 43, 51], byteAt (statusRecord s).toList k = 0 := by
  have hreserved {k : Nat} (hlow : 12 ≤ k) (hhigh : k < 16) := byteAt_statusRecord_reserved hlow hhigh s
  obtain ⟨h18, h19⟩ := byteAt_statusRecord_portGap s 0
  obtain ⟨h26, h27⟩ := byteAt_statusRecord_portGap s 1
  obtain ⟨h34, h35⟩ := byteAt_statusRecord_portGap s 2
  obtain ⟨h42, h43⟩ := byteAt_statusRecord_portGap s 3
  simp only [List.forall_mem_cons]
  exact ⟨hreserved (by decide) (by decide), hreserved (by decide) (by decide), hreserved (by decide) (by decide),
    hreserved (by decide) (by decide), h18, h19, h26, h27, h34, h35, h42, h43, byteAt_statusRecord_moveGap s,
    List.forall_mem_nil _⟩

/-! ### The identify record -/

theorem identifyByte_of_le {i : Nat} (hi : 12 ≤ i) (s : State) :
    identifyByte s i = if i < 12 then 0
      else if i < 28 then leByte (portOf (Fin.ofNat 4 ((i - 12) / 4)) s).capacity.toNat ((i - 12) % 4) else 0 := by
  obtain ⟨n, rfl⟩ := Nat.exists_eq_add_of_le' hi
  rfl

theorem identifyByte_capacity {j : Nat} (hj : j < 4) (p : PortId) (s : State) :
    identifyByte s (12 + 4 * p.val + j) = leByte (portOf p s).capacity.toNat j := by
  have hp : Fin.ofNat 4 ((12 + 4 * p.val + j - 12) / 4) = p := Fin.ext (by simp only [Fin.val_ofNat]; omega)
  rw [identifyByte_of_le (by omega), if_neg (by omega), if_pos (by omega), hp,
    show (12 + 4 * p.val + j - 12) % 4 = j by omega]

theorem take_identifyRecord (s : State) :
    (identifyRecord s).toList.take 12 = [4, 1, 0, 2, 16, 64, 96, 48, 32, 4, 0, 1] := by
  rw [identifyRecord, toList_bytesOf, ← List.map_take, List.take_range]
  rfl

theorem wordAt_identifyRecord_capacity (s : State) (p : PortId) :
    wordAt (identifyRecord s).toList (12 + 4 * p.val) = (portOf p s).capacity := by
  rw [identifyRecord, wordAt_bytesOf (by omega) fun k hk => identifyByte_capacity hk p s, BitVec.ofNat_toNat,
    BitVec.setWidth_eq]

theorem byteAt_identifyRecord_tail {k : Nat} (hlow : 28 ≤ k) (s : State) : byteAt (identifyRecord s).toList k = 0 := by
  by_cases hk : k < 512
  · rw [identifyRecord, byteAt_bytesOf hk, identifyByte_of_le (by omega), if_neg (by omega), if_neg (by omega)]
  · exact byteAt_bytesOf_of_le (Nat.le_of_not_lt hk) _

/-! ### Both records -/

theorem portFields_eq (s : State) (p : PortId) :
    byteAt (statusRecord s).toList (16 + 8 * p.val) = portStateCode (portOf p s).state ∧
      byteAt (statusRecord s).toList (17 + 8 * p.val) = BitVec.ofNat 8 (portOf p s).faults ∧
      wordAt (statusRecord s).toList (20 + 8 * p.val) = (portOf p s).capacity ∧
      wordAt (identifyRecord s).toList (12 + 4 * p.val) = (portOf p s).capacity := by
  refine ⟨byteAt_statusRecord_port (j := 0) (by decide) p s, ?_, wordAt_statusRecord_capacity s p,
    wordAt_identifyRecord_capacity s p⟩
  rw [show 17 + 8 * p.val = 16 + 8 * p.val + 1 by omega]
  exact byteAt_statusRecord_port (by decide) p s

/-- Settles O58: each field of R182 is read back from the bytes that spell it, and the rest of the bytes from the
parts of the record that leave them 0. -/
theorem recordsAsLaidOut : Obligations.RecordsAsLaidOut := by
  intro s b i
  have hbyte {k : Nat} (hk : k < 512) : byteAt b k = statusByte s k := byteAt_statusRecord hk s
  refine ⟨length_bytesOf _ _, length_bytesOf _ _, hbyte (by decide), hbyte (by decide), ?causes, hbyte (by decide),
    ?period, ?lapse, ?flags, ?timeout, ?staging, ?lock, halfAt_statusRecord_generation s, portFields_eq s,
    byteAt_statusRecord_gaps s, fun hidle _ => byteAt_statusRecord_idle hidle, fun _ => byteAt_statusRecord_moving,
    hbyte (by decide), ?busy, byteAt_statusRecord_noOperation, fun _ => byteAt_statusRecord_lastOperation,
    fun _ hk => byteAt_statusRecord_tail hk s, take_identifyRecord s, fun _ hk => byteAt_identifyRecord_tail hk s⟩
  case causes => rw [hbyte (by decide)]; exact toNat_bit_or_bit _ _
  case period => rw [hbyte (by decide)]; exact toNat_ofNat_fin (by decide) _
  case lapse => rw [hbyte (by decide)]; exact toNat_bit _
  case flags => rw [hbyte (by decide)]; exact toNat_flagsByte _
  case timeout => rw [hbyte (by decide)]; exact toNat_ofNat_fin (by decide) _
  case staging => rw [hbyte (by decide)]; exact toNat_bit _
  case lock => rw [hbyte (by decide)]; exact toNat_bit _
  case busy => rw [hbyte (by decide)]; exact bit_storeBusy s

end Sys2Proof.Machine
end

section
/-! SUPPORT. The step as a whole (log 9, log 10): what a command is at its event, what a part in reset does with it, and
that every command keeps the ports, the supervision state and the staging map sound (R91, R115, R145, R152). -/

namespace Sys2Proof.Machine

/-! ### The queue and the levels of the lines -/

/-- No command stops the part. -/
theorem exec_next (c : Instr) (s : State) : ∃ t, exec c s = .next t := by
  cases c <;> exact ⟨_, rfl⟩

theorem setPins_sound3 {s : State} (x : Pins) : Sound3 s (s.setPins x) :=
  ⟨id, id, id⟩

theorem setPending_sound3 {s : State} (x : List Instr) : Sound3 s (s.setPending x) :=
  ⟨id, id, id⟩

/-- R137: a part that stops keeps the three sound. -/
theorem stopPart_sound3 (s : State) : Sound3 s (stopPart s) := by
  unfold stopPart
  split
  · exact (settle_sound3 s).trans (cutOffStore_sound.at _)
  · exact Sound3.refl s

theorem presentChanges_sound3 (p : PortId) (low : Bool) {f : State → State} (hf : ∀ s, Sound3 s (f s)) (s : State) :
    Sound3 s (presentChanges p low f s) := by
  refine Sound3.trans (t := if s.pins.presentLow[p] = low then s else event f s) ?_ (setPins_sound3 _)
  split
  · exact Sound3.refl s
  · exact event_sound3 hf s

/-- R139: the release of RESETn, with or without a start-up. -/
theorem releaseReset_sound3 (s : State) : Sound3 s (releaseReset s) := by
  refine Sound3.trans (t := setReset false s) (setPins_sound3 _) ?_
  unfold releaseReset
  dsimp only
  split
  · exact (startUp_sound _).at _
  · exact Sound3.refl _

/-- R139: power becomes good, with or without a start-up. -/
theorem applyPower_sound3 (s : State) : Sound3 s (applyPower s) := by
  unfold applyPower
  dsimp only
  split
  · exact Sound3.refl s
  · refine Sound3.trans (t := setPower true s) (setPins_sound3 _) ?_
    split
    · exact Sound3.refl _
    · exact (startUp_sound _).at _

/-! ### Operations that answer for the ports alone -/

/-- An operation on traffic, the switch of a move among it, keeps the three when it keeps the ports. -/
theorem Sound3.of_steady {s t : State} (hc : t.steady = s.steady) (hp : PortsSound s → PortsSound t) : Sound3 s t :=
  ⟨hp, fun h => h.of_steady hc, fun h => h.of_steady hc⟩

theorem Sound3.of_control {s t : State} (hc : t.control = s.control) (hp : PortsSound s → PortsSound t) :
    Sound3 s t := .of_steady (steady_of_control hc) hp

theorem ifChecked_sound3 (check : Bool) {f : State → State} (hf : ∀ s, Sound3 s (f s)) (s : State) :
    Sound3 s (ifChecked check f s) := by
  unfold ifChecked
  split
  · exact hf s
  · exact Sound3.refl s

theorem pieceTimeUp_sound3 (p : PortId) (s : State) : Sound3 s (pieceTimeUp p s) := by
  unfold pieceTimeUp
  split
  · next hm => exact .of_steady (portFault_steady p _ s) fun h => h.portFault p _ (pieceAtMedia_ready hm)
  · exact Sound3.refl s

theorem probeTimeUp_sound3 (p : PortId) (s : State) : Sound3 s (probeTimeUp p s) := by
  unfold probeTimeUp
  split
  · next ht => exact .of_control (probeFails_control p s) fun h => h.probeFails p ((h p).2.2 (.inr ht))
  · exact Sound3.refl s

theorem phaseUp_sound3 (x : Timer) {f : State → State} (s : State) (hf : s.svm.timer = x → Sound3 s (f s)) :
    Sound3 s (phaseUp x f s) := by
  unfold phaseUp
  split
  · next h => exact hf h
  · exact Sound3.refl s

/-- R146: SECOND follows FIRST, both phases of WINDOW. -/
theorem enterSecondHalf_sound3 {s : State} (ht : s.svm.timer = .first) : Sound3 s (enterSecondHalf s) := by
  refine ⟨id, fun h => ?_, id⟩
  obtain ⟨hstop, -, hwindow, hrun, hfenced, hread⟩ := h
  refine ⟨?_, nofun, fun _ => hwindow (.inl ht), hrun, hfenced, hread⟩
  rw [ht] at hstop
  exact ⟨nofun, fun hn => nomatch hstop.mpr hn⟩

/-! ### Every command -/

/-- R25 to R28: a request command is the arrival of its record. -/
theorem exec_request {c : Instr} {r : Request} (hr : requestIn c = some r) (s : State) :
    exec c s = .next (event (requestArrives r) s) := by
  cases c <;> cases hr <;> rfl

theorem exec_request_sound3 {c : Instr} {r : Request} (hr : requestIn c = some r) {s t : State}
    (h : exec c s = .next t) : Sound3 s t := by
  cases (exec_request hr s).symm.trans h
  exact event_sound3 (requestArrives_sound3 r) s

/-- R139: the lines and the power. -/
theorem exec_line_sound3 {c : Instr} (hc : movesLine c = true) {s t : State} (h : exec c s = .next t) :
    Sound3 s t := by
  cases c <;> simp only [movesLine, Bool.false_eq_true] at hc <;> injection h with h <;> subst h
  case presentnAsserted p =>
    exact presentChanges_sound3 p true (fun s => .of_control (unitAppears_control p s) fun h => h.unitAppears p) s
  case presentnReleased p =>
    exact presentChanges_sound3 p false (fun s => .of_control (unitGone_control p s) fun h => h.unitGone p) s
  case wpnAsserted => exact (event_sound3 (addCause_sound .pin).at s).trans (setPins_sound3 _)
  case wpnReleased => exact (event_sound3 (removeCause_sound .pin).at s).trans (setPins_sound3 _)
  case resetnAsserted => exact (stopPart_sound3 s).trans (setPins_sound3 _)
  case resetnReleased => exact releaseReset_sound3 s
  case powerOn => exact applyPower_sound3 s
  case powerLoss => exact (stopPart_sound3 s).trans (setPins_sound3 _)

/-- The other events: frames, timers, media, the store and the part's own steps. -/
theorem exec_other_sound3 {c : Instr} (hr : requestIn c = none) (hl : movesLine c = false) {s t : State}
    (h : exec c s = .next t) : Sound3 s t := by
  cases c <;> simp only [requestIn, movesLine, reduceCtorEq] at hr hl <;> injection h with h <;> subst h
  case badFrame frame => exact event_sound3 (frameArrives_sound3 frame) s
  case hostData => exact event_sound3 (dataArrives_sound3 _ _ _) s
  case cancel t => exact event_sound3 (cancelArrives_sound3 t) s
  case linkReset => exact event_sound3 linkResetTaken_sound3 s
  case readDataDeparts => exact event_sound3 readDataLeaves_sound3 s
  case mgmtDataDeparts => exact event_sound3 managementDataLeaves_sound3 s
  case restartCmplDeparts => exact event_sound3 restartLeaves_sound3 s
  case frameDeparture => exact event_sound3 otherFrameLeaves_sound3 s
  case grantTimeExpiry t first => exact event_sound3 (grantTimeUp_sound3 t first.toNat) s
  case pieceTimerExpiry p => exact event_sound3 (pieceTimeUp_sound3 p) s
  case probeTimerExpiry p => exact event_sound3 (probeTimeUp_sound3 p) s
  case fullExpiry => exact event_sound3 (fun s => phaseUp_sound3 _ s fun _ => supervisionFailure_sound.at s) s
  case firstExpiry => exact event_sound3 (fun s => phaseUp_sound3 _ s enterSecondHalf_sound3) s
  case secondExpiry => exact event_sound3 (fun s => phaseUp_sound3 _ s fun _ => supervisionFailure_sound.at s) s
  case mediaData p check i b =>
    exact event_sound3 (ifChecked_sound3 check fun s =>
      .of_control (mediaBlock_control p i b s) fun h => h.mediaBlock p i b) s
  case mediaStsOk p check =>
    exact event_sound3 (ifChecked_sound3 check fun s => .of_steady (statusOk_steady p s) fun h => h.statusOk p) s
  case mediaStsError p check k kind =>
    exact event_sound3 (ifChecked_sound3 check fun s =>
      .of_steady (statusError_steady p k kind s) fun h => h.statusError p k kind) s
  case mediaStsNotReady p check =>
    exact event_sound3 (ifChecked_sound3 check fun s =>
      .of_steady (statusNotReady_steady p s) fun h => h.statusNotReady p) s
  case mediaStsInquiry p check capacity ready =>
    exact event_sound3 (ifChecked_sound3 check fun s =>
      .of_control (statusInquiry_control p capacity ready s) fun h => h.statusInquiry p capacity ready) s
  case storeWriteEndGood => exact event_sound3 goodWriteEnd_sound.at s
  case storeWriteEndBad => exact event_sound3 badWriteEnd_sound.at s
  case startUpReadEnd => exact event_sound3 readEnd_sound.at s
  case intakeHeadResolution =>
    exact ownEvent_sound3 (fun _ _ h => .quiet (intakeStep_control h) (intakeStep_ports h)) s
  case cutEvent => exact ownEvent_sound3 (fun _ _ h => .quiet (cutStep_control h) (cutStep_ports h)) s
  case flushResolution => exact ownStep_sound3 (fun _ _ h => .quiet (flushStep_control h) (flushStep_ports h)) s
  case flPieceCut => exact ownStep_sound3 (fun _ _ h => .quiet (flCutStep_control h) (flCutStep_ports h)) s
  case slotGrant => exact ownStep_sound3 (fun _ _ h => .quiet (slotGrantStep_control h) (slotGrantStep_ports h)) s
  case mguTakesHead => exact ownEvent_sound3 (fun _ _ => mguStep_sound3) s
  case blockingSetEmpties =>
    exact ownStep_sound3 (fun _ _ h => .quiet (blockingStep_control h) (blockingStep_ports h)) s
  case cpPieceCut => exact ownStep_sound3 (fun _ _ h => .quiet (cpCutStep_control h) (cpCutStep_ports h)) s
  case moveSwitch => exact ownStep_sound3 (fun _ _ => switchStep_sound3) s

/-- R91, R115, R145, R152: every command keeps the three sound. -/
theorem exec_sound3 {c : Instr} {s t : State} (h : exec c s = .next t) : Sound3 s t := by
  cases hr : requestIn c with
  | some r => exact exec_request_sound3 hr h
  | none =>
    cases hl : movesLine c with
    | true => exact exec_line_sound3 hl h
    | false => exact exec_other_sound3 hr hl h

/-- Settles O59: an empty queue idles, and every command keeps the three sound. -/
theorem stepKeepsSoundness : Obligations.StepKeepsSoundness := by
  intro s t ⟨hports, hsupervision, hstaging⟩ h
  have hs : Sound3 s t := by
    unfold step at h
    split at h
    · cases h
      exact Sound3.refl s
    · exact (setPending_sound3 _).trans (exec_sound3 h)
  exact ⟨hs.1 hports, hs.2.1 hsupervision, hs.2.2 hstaging⟩

/-- Settles O60: a closed fact about the state after the first start-up. -/
theorem soundAtReset : Obligations.SoundAtReset := by
  refine ⟨fun p => ?_, ?_, fun _ => rfl⟩
  · have hp : portOf p State.reset = Port.reset := by
      simp [portOf, State.reset]
    rw [hp]
    exact ⟨by decide, by decide, by decide⟩
  · exact ⟨by decide, by decide, by decide, by decide, by decide, by decide⟩

/-! ### The front of the queue, and a part in reset -/

/-- Settles O1: a step reads the front of the queue, and a part with nothing due takes no due step. -/
theorem stepTakesFront : Obligations.StepTakesFront := by
  refine fun s => ⟨fun c rest => ⟨rfl, exec_next c _⟩, fun h => ?idle, fun hr hd => ⟨hr, ?due⟩⟩
  case idle => simp only [step, h]
  case due => simp only [settle, stepBound, drain, hd]

/-- R169: what the attention bit reads. -/
theorem attention_iff (s : State) :
    attention s = true ↔ (s.mgu.flags.start = true ∨ s.mgu.flags.port = true ∨ s.mgu.flags.store = true ∨
      s.mgu.flags.link = true ∨ s.mgu.flags.fence = true) ∨ s.svm.lapse = true := by
  simp [attention, anyFlag, or_assoc]

/-- Settles O2: the bit is the disjunction of the flags and LAPSE, and the pin gates it by reset and power. -/
theorem attentionFollowsFlags : Obligations.AttentionFollowsFlags := by
  refine fun s => ⟨attention_iff s, ?_, fun _ _ _ _ _ => rfl⟩
  rw [attnPin, running]
  grind

theorem running_eq_false_of_reset {s : State} (h : s.pins.resetLow = true) : running s = false := by
  simp [running, h]

/-- R139: an own step of a stopped part is not taken. -/
theorem ownStep_stopped {s : State} (h : running s = false) (f : State → Option State) : ownStep f s = s := by
  simp [ownStep, h]

theorem ownEvent_stopped {s : State} (h : running s = false) (f : State → Option State) : ownEvent f s = s := by
  simp [ownEvent, h]

/-- R139: a stopped part takes no event but those of the lines and the power. -/
theorem exec_stopped {s : State} (h : running s = false) {c : Instr} (hc : movesLine c = false) :
    exec c s = .next s := by
  cases hr : requestIn c with
  | some r => rw [exec_request hr, event_stopped h]
  | none =>
    cases c <;> simp only [requestIn, movesLine, reduceCtorEq] at hr hc
    case flushResolution | flPieceCut | slotGrant | blockingSetEmpties | cpPieceCut | moveSwitch =>
      exact congrArg Host.Outcome.next (ownStep_stopped h _)
    case intakeHeadResolution | cutEvent | mguTakesHead => exact congrArg Host.Outcome.next (ownEvent_stopped h _)
    all_goals exact congrArg Host.Outcome.next (event_stopped h _)

/-- Settles O3: a part in reset does not run, so of an event at a pin only its level remains. -/
theorem heldInResetTakesNothing : Obligations.HeldInResetTakesNothing := by
  intro c s hreset
  have hstopped : running s = false := running_eq_false_of_reset hreset
  have hlevel : ∀ p low f, presentChanges p low f s = setPresent p low s := fun p low f => by
    rw [presentChanges, event_stopped hstopped, ite_self]
  refine ⟨exec_stopped hstopped, ?_, ?_, ?_, ?_⟩
  · rintro rfl
    exact congrArg (fun v => Host.Outcome.next (setWpn true v)) (event_stopped hstopped _)
  · rintro rfl
    exact congrArg (fun v => Host.Outcome.next (setWpn false v)) (event_stopped hstopped _)
  · rintro p rfl
    exact congrArg Host.Outcome.next (hlevel p true _)
  · rintro p rfl
    exact congrArg Host.Outcome.next (hlevel p false _)

/-- Settles O4: each table of the reset state is a vector of equal parts, and the rest are its fields. -/
theorem freshStart : Obligations.FreshStart := by
  refine ⟨?_, by decide, rfl, rfl⟩
  unfold Fresh
  refine ⟨fun t => ?_, rfl, rfl, rfl, rfl, rfl, ?_, rfl, rfl, fun t => ?_, fun i => ⟨?_, ?_⟩, rfl, rfl, fun id => ?_,
    fun p => ?_, rfl, rfl, rfl, fun p => ?_, rfl, fun p => ?_, rfl, rfl, rfl, fun i => ?_, rfl, rfl, rfl, rfl, rfl, rfl,
    rfl, rfl, rfl, rfl, rfl, rfl, rfl⟩
  all_goals simp [State.reset, entryOf, pieceOf, queueOf, portOf, portAtStart, ExtMap.empty, freeSegments,
    Config.segmentRecords]

end Sys2Proof.Machine
end

section
/-! SUPPORT. Requests at their arrival: placed, judged or discarded (R25 to R28, R46), and the frames that bring them
(R172, R174, R179). -/

namespace Sys2Proof.Machine

/-! ### The queues of arriving requests -/

theorem blockCount_eq (n : Byte) : blockCount n = if n = 0 then 256 else n.toNat := rfl

theorem queuesAtMgu_of_notMem {k : Kind} (h : k ∉ [.read, .write, .verify, .flush, .keepalive, .peek]) :
    queuesAtMgu k = true := by
  cases k <;> simp [queuesAtMgu, isDataKind] at h ⊢

/-- Settles O5: both queues are joined at their tail by the placement of the request. -/
theorem requestsJoinTheirQueues : Obligations.RequestsJoinTheirQueues := by
  refine fun s u hs => ⟨fun t unit n lba c k he hmem hu hb => ?_, fun c r k hr hk he h7 hnot hw => ?_⟩
  · have hplace : exec c s = .next (finish (joinIntake k (dataRequest k t unit n lba) (clearWithdrawn t u))) ∧
        namesBlocks k = true ∧ isDataKind k = true := by
      simp only [List.mem_cons, Prod.mk.injEq, List.not_mem_nil, or_false] at hmem
      obtain ⟨rfl, rfl⟩ | ⟨rfl, rfl⟩ | ⟨rfl, rfl⟩ := hmem <;>
        exact ⟨by rw [request_event hs rfl, requestArrives_data he rfl hu fun _ => hb]; rfl, rfl, rfl⟩
    obtain ⟨hexec, hnames, hdata⟩ := hplace
    rw [hexec]
    simp only [joinIntake, newEntry, hnames, hdata, if_true]
    rfl
  · rw [request_event hs hr, requestArrives_waits he hk (queuesAtMgu_of_notMem hnot) h7 hw]

theorem mem_earlierWrites (unit : Byte) (s : State) (t : Tag) :
    t ∈ earlierWrites unit s ↔ ∃ e, entryOf t s = some e ∧ e.kind = .write ∧ e.unit = unit := by
  simp [earlierWrites, allTags, Option.any_eq_true]

theorem nodup_earlierWrites (unit : Byte) (s : State) : (earlierWrites unit s).Nodup :=
  (List.nodup_finRange 16).filter _

/-- Settles O6: the wait set is the list of WRITE requests that the placement reads. -/
theorem flushRecordsWaitSet : Obligations.FlushRecordsWaitSet := by
  intro s u t unit hs he hu
  refine ⟨earlierWrites unit u, nodup_earlierWrites unit u, mem_earlierWrites unit u, ?_⟩
  rw [request_event hs rfl, requestArrives_data he rfl hu (by simp [namesBlocks])]
  rfl

/-! ### The arrival checks -/

theorem arrivalRemaining_eq {r : Request} {k : Kind} (hk : kindOf r.code = some k) :
    arrivalRemaining r = if k = .read ∨ k = .write ∨ k = .verify then (if r.count = 0 then 256 else r.count.toNat)
      else 0 := by
  simp only [arrivalRemaining, hk]
  cases k <;> rfl

/-- Settles O7: a busy tag, and the three checks in their order. -/
theorem arrivalJudged : Obligations.ArrivalJudged := by
  refine fun s u c r hs hr => ⟨fun hbusy => ?_, fun k cause hk he hcase => ?_⟩
  · rw [request_event hs hr, requestArrives_busy hbusy]
    rfl
  · have hcheck : arrivalCheck r = some cause := by
      obtain ⟨rfl, hunit⟩ | ⟨rfl, hunit, hiff⟩ | ⟨rfl, hunit, hnames, hend⟩ := hcase
      · exact arrivalCheck_badUnit hunit
      · refine arrivalCheck_badKind hunit hk (Bool.eq_iff_iff.mpr ?_)
        rw [decide_eq_true_iff, ← hiff]
        cases k <;> simp [isDataKind]
      · refine arrivalCheck_badParam hunit hk ?_ hend
        obtain rfl | rfl | rfl := hnames <;> rfl
    rw [request_event hs hr, requestArrives_refused he hcheck, arrivalRemaining_eq hk]
    rfl

/-! ### Requests answered or acted on from a record -/

theorem identifyRecord_of_ports {u v : State} (h : v.ports = u.ports) : identifyRecord v = identifyRecord u :=
  congrArg (bytesOf 512) (funext fun i => by simp only [identifyByte, h])

theorem statusRecord_clearWithdrawn (t : Tag) (u : State) :
    statusRecord (clearWithdrawn t u) = statusRecord u :=
  congrArg (bytesOf 512) (funext fun i => by simp only [statusByte]; rfl)

theorem emptyBuffer_fill (b : Block) (s : State) :
    fillBuffer 0 b (emptyBuffer s) = s.setMgu { s.mgu with buffer := #v[some b, none] } := rfl

/-- Settles O11: the frames of the three requests that a record answers. -/
theorem recordRequestsTaken : Obligations.RecordRequestsTaken := by
  refine fun s u t hs => ⟨fun ht => ?_, fun ht => ?_, fun he => ?_⟩
  · rw [exec_taken hs ht rfl rfl]
    have hrecord := identifyRecord_of_ports (u := u) (v := takeManagement t .identify 0 0 0 u) rfl
    simp only [mguActs, freshEntry, mguIdentify, hrecord, emptyBuffer_fill]
    rfl
  · rw [exec_taken hs ht rfl rfl]
    rfl
  · rw [request_event hs rfl, requestArrives_param he rfl]
    simp only [placeRequest, answerPeek, paramRequest, statusRecord_clearWithdrawn]
    simp only [sendCmpl, handFrame, clearWithdrawn, State.setUlc, List.append_assoc, List.cons_append, List.nil_append]
    rfl

/-! ### MGU and the head of its queue -/

theorem exec_mguTakesHead (s : State) : exec .mguTakesHead s = .next (ownEvent mguStep s) := rfl

/-- Settles O25: MGU's step on the head, and the cases in which it has none. -/
theorem mguTakesHead : Obligations.MguTakesHead := by
  refine fun s u hr hu => ⟨fun t rest e hx hl hm he => ?_, fun h => ?_⟩
  · rw [exec_mguTakesHead, ownEvent_some hr hu (mguStep_takes hx hl hm he)]
    rfl
  · have hnone : mguStep u = none := by
      obtain h | h | h := h
      · exact mguStep_waits (.inl h)
      · exact mguStep_waits (.inr h)
      · simp [mguStep, h]
    rw [exec_mguTakesHead, ownEvent_none hr hu hnone]

end Sys2Proof.Machine
end

section
/-! SUPPORT. Management requests that MGU answers at their arrival (R116 to R124, R130, R134, R142, R155): refused by the
first check that matches, or carried out. -/

namespace Sys2Proof.Machine

/-! ### What SVM does to its own state and to the FENCE flag (R145, R152, R154) -/

/-- R152, R154: the part that removes a cause: FENCE is set, and the last cause of a FENCED part takes it to RUN. -/
theorem removeCause_eq {c : FenceCause} {s : State} (h : hasCause c s = true) :
    let freed := s.svm.partState = .fenced ∧ anyCause (putCause c false s.svm.causes) = false
    removeCause c s = (s.setSvm {
        (if freed ∧ s.mgu.settings.mode ≠ .off then periodStarts s.mgu.settings s.svm else s.svm) with
        partState := if freed then .run else s.svm.partState
        causes := putCause c false s.svm.causes }).setMgu
      { s.mgu with flags := { s.mgu.flags with fence := true } } := by
  intro freed
  have hfence : setFlag .fence (s.setSvm { s.svm with causes := putCause c false s.svm.causes }) =
      (s.setSvm { s.svm with causes := putCause c false s.svm.causes }).setMgu
        { s.mgu with flags := { s.mgu.flags with fence := true } } := rfl
  simp only [removeCause, h, if_true, hfence]
  by_cases hf : freed
  · obtain ⟨hstate, hcauses⟩ := hf
    simp only [freed, State.setMgu_svm, State.setSvm_svm, hstate, hcauses, Bool.not_false, and_self, if_true, true_and]
    unfold freshPeriod
    cases hm : s.mgu.settings.mode <;>
      simp [setPartState, hm, State.setMgu, State.setSvm, freshPhase, periodStarts]
  · have hkeep : ¬(s.svm.partState = .fenced ∧ (!anyCause (putCause c false s.svm.causes)) = true) := by
      simpa [freed] using hf
    simp only [State.setMgu_svm, State.setSvm_svm, hkeep, hf, if_false, false_and]

theorem removeCause_absent {c : FenceCause} {s : State} (h : hasCause c s = false) : removeCause c s = s := by
  simp [removeCause, h]

/-- R152: a part whose timer is stopped enters FENCED with a cause present. -/
theorem enterService_fenced {s : State} (h : anyCause s.svm.causes = true) (ht : s.svm.timer = .stopped) :
    enterService s = (s.setSvm { s.svm with partState := .fenced }).setMgu
      { s.mgu with flags := { s.mgu.flags with fence := true } } := by
  simp only [enterService, h, if_true, setPartState, setFlag, raiseFlag, ← ht]
  simp [State.setSvm, State.setMgu]

/-- R145, R152: with no cause the part enters RUN with a fresh period. -/
theorem enterService_run {s : State} (h : anyCause s.svm.causes = false) :
    enterService s = s.setSvm {
      (if s.mgu.settings.mode = .off then s.svm else periodStarts s.mgu.settings s.svm) with partState := .run } := by
  simp only [enterService, h, freshPeriod, setPartState]
  cases hm : s.mgu.settings.mode <;> simp [hm, State.setSvm, freshPhase, periodStarts]

theorem anyCause_iff (c : FenceCauses) : anyCause c = true ↔ c.supervision = true ∨ c.pin = true := by
  simp [anyCause]

/-- R145: the timer of a sound part that is not RUN is stopped. -/
theorem SupervisionSound.timer_stopped {s : State} (h : SupervisionSound s) (hr : s.svm.partState ≠ .run) :
    s.svm.timer = .stopped := h.1.mpr fun x => hr x.1

/-! ### Requests taken at their arrival -/

/-- R160: MGU takes a request and refuses it. -/
theorem exec_refused {s u : State} {c : Instr} {t : Tag} {k : Kind} {p0 p1 p2 : Word} {cause : Cause} {d : Nat}
    (hs : StandsAt s u) (ht : TakenAtOnce t u) (hc : requestIn c = some (paramRequest k t 7 p0 p1 p2))
    (hq : queuesAtMgu k = true)
    (h : mguActs t (freshEntry .active k 7 0 0 p0 p1 p2 []) (takeManagement t k p0 p1 p2 u) =
      complete t .refused cause 0 d (takeManagement t k p0 p1 p2 u)) :
    ∃ w, exec c s = .next (finish w) ∧ Answers t .refused cause 0 d u w ∧ SameMedia u w ∧ SameManagement u w :=
  ⟨_, by rw [exec_taken hs ht hc hq, h], refused_at_once t k p0 p1 p2 u cause d⟩

/-- The maps, MGU, the store and the supervision state replaced. -/
def State.setManagement (x : Xmp) (g : Mgu) (m : Mst) (y : Svm) (s : State) : State :=
  (((s.setXmp x).setMgu g).setMst m).setSvm y

/-- R41, R160: MGU takes a request, acts on the maps, on itself, on the store and on supervision, and answers. -/
theorem exec_answered {s u : State} {t : Tag} {o : ReqOutcome} {cause : Cause} {d : Nat} {x : Xmp} {g : Mgu} {m : Mst}
    {y : Svm} (c : Instr) (k : Kind) (p0 p1 p2 : Word) (hs : StandsAt s u) (ht : TakenAtOnce t u)
    (hc : requestIn c = some (paramRequest k t 7 p0 p1 p2)) (hq : queuesAtMgu k = true)
    (h : mguActs t (freshEntry .active k 7 0 0 p0 p1 p2 []) (takeManagement t k p0 p1 p2 u) =
      complete t o cause 0 d ((takeManagement t k p0 p1 p2 u).setManagement x g m y)) :
    ∃ w, exec c s = .next (finish w) ∧ Answers t o cause 0 d u w ∧ SameMedia u w ∧
      w.xmp = x ∧ w.mgu = g ∧ w.mst = m ∧ w.svm = y := by
  refine ⟨_, by rw [exec_taken hs ht hc hq, h], ?_, ?_, complete_xmp .., complete_mgu .., complete_mst ..,
    complete_svm ..⟩
  · exact ((complete_answers t o cause 0 d _).of_view (v := (takeManagement t k p0 p1 p2 u).setManagement x g m y)
      (u := takeManagement t k p0 p1 p2 u) rfl rfl rfl).of_take
  · exact SameMedia.complete (v := (takeManagement t k p0 p1 p2 u).setManagement x g m y)
      ⟨rfl, rfl, rfl, rfl, rfl, rfl, rfl⟩ _ _ _ _ _

/-- Settles O13: the SUPERVISION cause is present, or the part was not FENCED by it alone. -/
theorem unfenceTaken : Obligations.UnfenceTaken := by
  intro s u t hs hsound ht freed
  suffices h : mguUnfence t (takeManagement t .unfence 0 0 0 u) =
      complete t .good .none 0 (if u.svm.causes.pin then 1 else 0)
        ((takeManagement t .unfence 0 0 0 u).setManagement u.xmp
          { u.mgu with flags := { u.mgu.flags with fence := u.mgu.flags.fence || u.svm.causes.supervision } } u.mst
          { (if freed ∧ u.mgu.settings.mode ≠ .off then periodStarts u.mgu.settings u.svm else u.svm) with
            partState := if freed then .run else u.svm.partState
            lapse := false
            causes := ⟨false, u.svm.causes.pin⟩ }) by
    obtain ⟨w, hexec, hanswer, hmedia, hx, hg, hm, hy⟩ := exec_answered (.unfence t 7) .unfence 0 0 0 hs ht rfl rfl h
    exact ⟨w, hexec, hanswer, hmedia, hx, hm, hg, hy⟩
  generalize hv : takeManagement t .unfence 0 0 0 u = v
  have hsvm : v.svm = u.svm := by rw [← hv]; rfl
  have hmgu : v.mgu = u.mgu := by rw [← hv]; rfl
  have hxmp : v.xmp = u.xmp := by rw [← hv]; rfl
  have hmst : v.mst = u.mst := by rw [← hv]; rfl
  cases hcause : u.svm.causes.supervision
  case true =>
    have hfreed : (v.svm.partState = .fenced ∧ anyCause (putCause .supervision false v.svm.causes) = false) ↔ freed := by
      simp [freed, hsvm, anyCause, putCause]
    have heq := removeCause_eq (c := .supervision) (s := v) (by rw [hasCause, hsvm, hcause])
    simp only [hfreed] at heq
    simp only [mguUnfence, heq, hsvm, hmgu, Bool.or_true, ← hxmp, ← hmst]
    rfl
  case false =>
    have hnot : ¬freed := fun ⟨hfenced, hpin⟩ => by
      have hany := hsound.2.2.2.2.1 hfenced
      simp [anyCause, hcause, hpin] at hany
    have heq : removeCause .supervision v = v := removeCause_absent (by rw [hasCause, hsvm, hcause])
    have hcauses : v.svm.causes = ⟨false, v.svm.causes.pin⟩ := by rw [hsvm, ← hcause]
    simp only [mguUnfence, heq, hnot, if_false, false_and, Bool.or_false, ← hxmp, ← hmst, ← hmgu, ← hsvm]
    rw [← hcauses]
    rfl

/-! ### Staging (R116, R117, R124) -/

theorem usedCount_eq (m : ExtMap) : usedCount m = m.toList.countP fun e => e.used = 1 := rfl

theorem usedCount_settleMap (m : ExtMap) : usedCount (settleMap m) = usedCount m := by
  show List.countP isUsed (m.toList.map _) = _
  rw [List.countP_map]
  rfl

theorem settleMap_get (m : ExtMap) (i : Fin 64) : (settleMap m)[i] = { m[i] with moving := false } :=
  mapVec_get _ m i

theorem extMap_empty_get (i : Fin 64) : ExtMap.empty[i] = Extent.empty := by
  simp [ExtMap.empty]

/-- Settles O14: the lock decides an OPEN, and a DISCARD acts on an open staging alone. -/
theorem stagingOpenedAndDiscarded : Obligations.StagingOpenedAndDiscarded := by
  refine fun s u t hs ht => ⟨fun hlock => ?refused, fun hlock => ?opened, ?discarded⟩
  case refused => exact exec_refused hs ht rfl rfl (if_pos hlock)
  case opened =>
    have hacts : mguMapOpen t (takeManagement t .mapOpen 0 0 0 u) =
        complete t .good .none 0 (u.xmp.active.toList.countP fun e => e.used = 1)
          ((takeManagement t .mapOpen 0 0 0 u).setManagement
            { u.xmp with staging := settleMap u.xmp.active, stagingOpen := true } u.mgu u.mst u.svm) := by
      rw [← usedCount_eq, ← usedCount_settleMap]
      exact if_neg (fun h : u.mst.lock = true => by simp [h] at hlock)
    obtain ⟨w, hexec, hanswer, hmedia, hx, hg, hm, hy⟩ := exec_answered (.mapOpen t 7) .mapOpen 0 0 0 hs ht rfl rfl hacts
    exact ⟨w, hexec, hanswer, hmedia, hg, hm, hy, by rw [hx], by rw [hx], by rw [hx], by rw [hx]; exact settleMap_get _⟩
  case discarded =>
    have hacts : mguMapDiscard t (takeManagement t .mapDiscard 0 0 0 u) =
        complete t .good .none 0 0 ((takeManagement t .mapDiscard 0 0 0 u).setManagement
          (if u.xmp.stagingOpen then { u.xmp with staging := ExtMap.empty, stagingOpen := false } else u.xmp)
          u.mgu u.mst u.svm) := by
      refine congrArg (complete t .good .none 0 0) ?_
      show (if u.xmp.stagingOpen = true then _ else _) = _
      split <;> rfl
    obtain ⟨w, hexec, hanswer, hmedia, hx, hg, hm, hy⟩ := exec_answered (.mapDiscard t 7) .mapDiscard 0 0 0 hs ht rfl rfl hacts
    exact ⟨w, hexec, hanswer, hmedia, hg, hm, hy, fun h => by rw [hx, if_pos h],
      fun h => by rw [hx, h, if_neg Bool.false_ne_true]⟩

theorem windowGood_iff (first count : Word) : windowGood first count = true ↔
    0 < count.toNat ∧ count.toNat ≤ 64 ∧ first.toNat ≤ 63 ∧ first.toNat + count.toNat ≤ 64 := by
  simp [windowGood, and_assoc]

/-- Settles O15: the three checks in their order, and the grant that an accepted request opens. -/
theorem mapStageTaken : Obligations.MapStageTaken := by
  intro s u t first count hs ht window
  have hwindow : windowGood first count = true ↔ window := windowGood_iff first count
  have hrefusal : stageRefusal (freshEntry .active .mapStage 7 0 0 first count 0 [])
      (takeManagement t .mapStage first count 0 u) =
        if u.mst.lock then some .locked else if !u.xmp.stagingOpen then some .notOpen
          else if !windowGood first count then some .badParam else none := rfl
  refine ⟨fun cause hcase => exec_refused (d := 0) hs ht rfl rfl ?refused, fun hlock hopen hgood => ?granted⟩
  case refused =>
    have hcause : stageRefusal (freshEntry .active .mapStage 7 0 0 first count 0 [])
        (takeManagement t .mapStage first count 0 u) = some cause := by
      rw [hrefusal]
      obtain ⟨hlock, rfl⟩ | ⟨hlock, hopen, rfl⟩ | ⟨hlock, hopen, hbad, rfl⟩ := hcase
      · simp [hlock]
      · simp [hlock, hopen]
      · simp [hlock, hopen, mt hwindow.mp hbad]
    show mguMapStage t _ _ = _
    simp only [mguMapStage, hcause]
  case granted =>
    have hnone : stageRefusal (freshEntry .active .mapStage 7 0 0 first count 0 [])
        (takeManagement t .mapStage first count 0 u) = none := by
      rw [hrefusal]
      simp [hlock, hopen, hwindow.mpr hgood]
    rw [exec_taken hs ht rfl rfl]
    show Host.Outcome.next (finish (mguMapStage t _ _)) = _
    simp only [mguMapStage, hnone]
    rfl

/-! ### The commit of staging (R120, R122) -/

/-- R122: the maps after a commit: staging is the active map, empty and CLOSED itself, and the generation has risen. -/
def installedMap (s : State) : Xmp := ⟨settleMap s.xmp.staging, s.xmp.generation + 1, ExtMap.empty, false⟩

/-- R122, R152: what a commit makes of a part by its state and its causes. -/
theorem installMap_eq {v : State} (hstopped : v.svm.partState = .bare → v.svm.timer = .stopped) :
    ∃ g y, installMap v = v.setManagement (installedMap v) g v.mst y ∧
      (v.svm.partState = .run → y = v.svm ∧ g = v.mgu) ∧
      (v.svm.partState = .bare → anyCause v.svm.causes = true → y = { v.svm with partState := .fenced } ∧
        g = { v.mgu with flags := { v.mgu.flags with fence := true } }) ∧
      (v.svm.partState = .bare → ¬anyCause v.svm.causes = true → g = v.mgu ∧
        y = { (if v.mgu.settings.mode = .off then v.svm else periodStarts v.mgu.settings v.svm) with
          partState := .run }) := by
  have hinstall : installMap v = if v.svm.partState = .bare then enterService (v.setXmp (installedMap v))
      else v.setXmp (installedMap v) := rfl
  rw [hinstall]
  split
  · next hbare =>
    have hnotRun : v.svm.partState ≠ .run := by rw [hbare]; nofun
    cases hany : anyCause v.svm.causes
    · rw [enterService_run (s := v.setXmp (installedMap v)) hany]
      exact ⟨_, _, rfl, fun h => absurd h hnotRun, fun _ => nofun, fun _ _ => ⟨rfl, rfl⟩⟩
    · rw [enterService_fenced (s := v.setXmp (installedMap v)) hany (hstopped hbare)]
      exact ⟨_, _, rfl, fun h => absurd h hnotRun, fun _ _ => ⟨rfl, rfl⟩, fun _ h => absurd rfl h⟩
  · next hbare =>
    exact ⟨_, _, rfl, fun _ => ⟨rfl, rfl⟩, fun h => absurd h hbare, fun h => absurd h hbare⟩

/-- Settles O16: the checks of R120 in their order, and the part states in which an accepted commit finds the part. -/
theorem mapCommitTaken : Obligations.MapCommitTaken := by
  intro s u t hs hsound ht
  have hrefusal : commitRefusal (takeManagement t .mapCommit 0 0 0 u) =
      if u.mst.lock then some (.locked, 0)
      else if u.svm.partState = .fenced then some (.fenced, 0)
      else if !u.xmp.stagingOpen then some (.notOpen, 0)
      else if u.mve.isSome then some (.moveActive, 0)
      else if storeBusy u then some (.saveActive, 0)
      else (firstBadIndex u.xmp.staging).map fun i => (.invalidMap, i) := rfl
  have hbusy : storeBusy u = true ↔ u.mst.op ≠ .idle := decide_eq_true_iff
  refine ⟨fun cause detail hcase => exec_refused hs ht rfl rfl ?refused,
    fun hlock hstate hopen hmove hop hgood => ?taken⟩
  case refused =>
    have hcause : commitRefusal (takeManagement t .mapCommit 0 0 0 u) = some (cause, detail) := by
      rw [hrefusal]
      obtain ⟨hlock, rfl, rfl⟩ | ⟨hlock, ⟨hfenced, rfl, rfl⟩ | ⟨hstate, ⟨hopen, rfl, rfl⟩ |
        ⟨hopen, ⟨hmove, rfl, rfl⟩ | ⟨hmove, ⟨hop, rfl, rfl⟩ | ⟨hop, rfl, hbad⟩⟩⟩⟩⟩ := hcase
      · simp [hlock]
      · simp [hlock, hfenced]
      · simp [hlock, hstate, hopen]
      · simp [hlock, hstate, hopen, hmove]
      · simp [hlock, hstate, hopen, hmove, hbusy.mpr hop]
      · simp [hlock, hstate, hopen, hmove, hbusy, hop, hbad]
    show mguMapCommit t _ = _
    simp only [mguMapCommit, hcause]
  case taken =>
    intro anyCause
    have hnone : commitRefusal (takeManagement t .mapCommit 0 0 0 u) = none := by
      rw [hrefusal]
      simp [hlock, hstate, hopen, hmove, hbusy, hop, hgood]
    obtain ⟨g, y, hinstall, hrun, hfenced, hbare⟩ :=
      installMap_eq (v := takeManagement t .mapCommit 0 0 0 u) fun h => hsound.timer_stopped (h.symm ▸ nofun)
    rw [anyCause_iff] at hfenced hbare
    have hacts : mguMapCommit t (takeManagement t .mapCommit 0 0 0 u) =
        complete t .good .none 0 ((installedMap u).active.toList.countP fun e => e.used = 1)
          ((takeManagement t .mapCommit 0 0 0 u).setManagement (installedMap u) g u.mst y) := by
      simp only [mguMapCommit, hnone, hinstall]
      rfl
    obtain ⟨w, hexec, hanswer, hmedia, hx, hg, hm, hy⟩ :=
      exec_answered (.mapCommit t 7) .mapCommit 0 0 0 hs ht rfl rfl hacts
    exact ⟨w, hexec, by rw [hx]; exact hanswer, hmedia, hm, by rw [hx]; rfl, by rw [hx]; rfl,
      by rw [hx]; exact fun i => ⟨settleMap_get _ i, extMap_empty_get i⟩, by rw [hg, hy]; exact hrun,
      by rw [hg, hy]; exact hfenced, by rw [hg, hy]; exact hbare⟩

/-! ### Store operations and RESTART (R130, R134, R142) -/

theorem storeBusy_iff (s : State) : storeBusy s = true ↔ s.mst.op ≠ .idle := decide_eq_true_iff

theorem storeBusy_eq_false {s : State} (h : s.mst.op = .idle) : storeBusy s = false := decide_eq_false (Classical.not_not.mpr h)

/-- R130: MST takes a MAP SAVE or a LOCK at its arrival. -/
theorem exec_save {s u : State} {t : Tag} {c : Instr} {k : Kind} {locking : Bool} (hs : StandsAt s u)
    (ht : TakenAtOnce t u)
    (hmem : (c, k, locking) ∈ [(Instr.mapSave t 7, Kind.mapSave, false), (Instr.lock t 7, Kind.lock, true)]) :
    requestIn c = some (paramRequest k t 7 0 0 0) ∧ queuesAtMgu k = true ∧
      mguActs t (freshEntry .active k 7 0 0 0 0 0 []) (takeManagement t k 0 0 0 u) =
        startSave locking t (takeManagement t k 0 0 0 u) ∧
      exec c s = .next (finish (startSave locking t (takeManagement t k 0 0 0 u))) := by
  have hkind : requestIn c = some (paramRequest k t 7 0 0 0) ∧ queuesAtMgu k = true ∧
      mguActs t (freshEntry .active k 7 0 0 0 0 0 []) (takeManagement t k 0 0 0 u) =
        startSave locking t (takeManagement t k 0 0 0 u) := by
    simp only [List.mem_cons, Prod.mk.injEq, List.not_mem_nil, or_false] at hmem
    obtain ⟨rfl, rfl, rfl⟩ | ⟨rfl, rfl, rfl⟩ := hmem <;> exact ⟨rfl, rfl, rfl⟩
  obtain ⟨hrequest, hqueues, hacts⟩ := hkind
  exact ⟨hrequest, hqueues, hacts, by rw [exec_taken hs ht hrequest hqueues, hacts]⟩

/-- Settles O19: the checks of R130 in their order, and the image of this moment. -/
theorem saveTaken : Obligations.SaveTaken := by
  intro s u t c k locking hs ht hmem
  obtain ⟨hrequest, hqueues, hacts, hexec⟩ := exec_save hs ht hmem
  have hrefusal : saveRefusal (takeManagement t k 0 0 0 u) =
      if u.mst.lock then some .locked
      else if u.svm.partState = .fenced then some .fenced
      else if u.svm.partState = .bare then some .noMap
      else if storeBusy u then some .saveActive
      else none := rfl
  refine ⟨fun cause hcase => exec_refused (d := 0) hs ht hrequest hqueues (hacts.trans ?refused),
    fun hlock hrun hop => ⟨saveImage locking u, fun i => mapVec_get normalExtent _ i, rfl, usedCount_eq _, rfl, rfl,
      ?taken⟩⟩
  case refused =>
    have hcause : saveRefusal (takeManagement t k 0 0 0 u) = some cause := by
      rw [hrefusal]
      obtain ⟨hlock, rfl⟩ | ⟨hlock, ⟨hstate, rfl⟩ | ⟨hstate, rfl⟩ | ⟨hstate, hop, rfl⟩⟩ := hcase
      · simp [hlock]
      · simp [hlock, hstate]
      · simp [hlock, hstate]
      · simp [hlock, hstate, (storeBusy_iff u).mpr hop]
    simp only [startSave, hcause]
  case taken =>
    have hnone : saveRefusal (takeManagement t k 0 0 0 u) = none := by
      rw [hrefusal]
      simp [hlock, hrun, storeBusy_eq_false hop]
    rw [hexec]
    simp only [startSave, hnone]
    rfl

/-- Settles O20: the checks of R134 in their order, and the write that starts. -/
theorem unlockTaken : Obligations.UnlockTaken := by
  intro s u t hs ht
  have hrefusal : unlockRefusal (takeManagement t .unlock 0 0 0 u) =
      if u.svm.partState = .fenced then some .fenced
      else if storeBusy u then some .saveActive
      else if u.mve.isSome then some .moveActive
      else none := rfl
  refine ⟨fun cause hcase => exec_refused (d := 0) hs ht rfl rfl ?refused, fun hstate hop hmove => ?taken⟩
  case refused =>
    have hcause : unlockRefusal (takeManagement t .unlock 0 0 0 u) = some cause := by
      rw [hrefusal]
      obtain ⟨hstate, rfl⟩ | ⟨hstate, ⟨hop, rfl⟩ | ⟨hop, hmove, rfl⟩⟩ := hcase
      · simp [hstate]
      · simp [hstate, (storeBusy_iff u).mpr hop]
      · simp [hstate, storeBusy_eq_false hop, hmove]
    show startUnlock t _ = _
    simp only [startUnlock, hcause]
  case taken =>
    have hnone : unlockRefusal (takeManagement t .unlock 0 0 0 u) = none := by
      rw [hrefusal]
      simp [hstate, storeBusy_eq_false hop, hmove]
    rw [exec_taken hs ht rfl rfl]
    show Host.Outcome.next (finish (startUnlock t _)) = _
    simp only [startUnlock, hnone]
    rfl

theorem freeEntry_entryOf (t : Tag) (s : State) : entryOf t (freeEntry t s) = none := by
  simp [entryOf, freeEntry_rqt]

theorem freeEntry_entryOf_ne {t t' : Tag} (h : t' ≠ t) (s : State) :
    entryOf t' (freeEntry t s) = (entryOf t' s).map (forget t) := by
  have hval : t.val ≠ t'.val := fun x => h (Fin.ext x).symm
  simp [entryOf, freeEntry_rqt, hval, mapVec]

theorem freeEntry_handed (t : Tag) (s : State) : handed (freeEntry t s) = handed s := by
  have hulc : (freeEntry t s).ulc = (withdrawGrants (fun g => g.tag = t) s).ulc := by rw [freeEntry_blocks]; rfl
  unfold handed
  rw [hulc]
  exact withdrawGrants_handed _ s

theorem freeEntry_sameMedia (t : Tag) (s : State) : SameMedia s (freeEntry t s) := by
  rw [freeEntry_blocks]
  exact ⟨rfl, rfl, rfl, rfl, rfl, rfl, rfl⟩

theorem freeEntry_sameManagement (t : Tag) (s : State) : SameManagement s (freeEntry t s) := by
  rw [freeEntry_blocks]
  exact ⟨rfl, rfl, rfl, rfl⟩

/-- Settles O21: refused while a store operation runs, or its entry is freed behind the frame that starts the part. -/
theorem restartTaken : Obligations.RestartTaken := by
  refine fun s u t hs ht => ⟨fun hop => exec_refused hs ht rfl rfl (if_pos ((storeBusy_iff u).mpr hop)),
    fun hop => ?_⟩
  generalize hv : takeManagement t .restart 0 0 0 u = v
  let stopped := v.setMgu { v.mgu with exec := .stopped, executing := none }
  let answered := handFrame (.cmpl (completionOf t .good .none 0 0 stopped) true) stopped
  have hacts : mguRestart t v = freeEntry t answered := by
    refine if_neg ?_
    rw [storeBusy_iff, ← hv]
    exact Classical.not_not.mpr hop
  have hexec : exec (.restart t 7) s = .next (finish (mguRestart t v)) := by rw [exec_taken hs ht rfl rfl, hv]; rfl
  obtain ⟨hx, hg, hm, hy⟩ := freeEntry_sameManagement t answered
  obtain ⟨hpsc, hspa, hports, hout, hpins, hdraws, hpending⟩ := freeEntry_sameMedia t answered
  refine ⟨freeEntry t answered, by rw [hexec, hacts], freeEntry_entryOf t _, fun t' hne => ?_, ?_, ?_, ?_, ?_, ?_, ?_⟩
  · rw [freeEntry_entryOf_ne hne]
    congr 1
    rw [← takeEntry_entryOf_ne hne _ u, ← takeManagement.eq_1, hv]
    rfl
  · rw [freeEntry_handed]
    subst hv
    simp only [handed, answered, handFrame, State.setUlc_ulc, List.filter_append]
    rfl
  · subst hv
    exact hg
  · subst hv
    exact ⟨hpsc, hspa, hports, hout, hpins, hdraws, hpending⟩
  · subst hv
    exact hx
  · subst hv
    exact hm
  · subst hv
    exact hy

end Sys2Proof.Machine
end

section
/-! SUPPORT. Bytes read back as they were written: fields, check words, extent records, host frames and the store image
(R172 to R175, R179, R181, R183). -/

namespace Sys2Proof.Machine

/-! ### Fields -/

theorem length_leBytes (n v : Nat) : (leBytes n v).length = n := by
  induction n generalizing v with
  | zero => rfl
  | succ n ih => rw [leBytes, List.length_cons, ih]

theorem leNat_leBytes (n v : Nat) : leNat (leBytes n v) = v % 256 ^ n := by
  induction n generalizing v with
  | zero => simp [leBytes, leNat, Nat.mod_one]
  | succ n ih =>
    have hpow : 256 ^ (n + 1) = 256 * 256 ^ n := Nat.pow_succ'
    rw [leBytes, leNat, ih, BitVec.toNat_ofNat, hpow]
    exact Nat.mod_mul.symm

theorem half_leBytes (w : Half) : BitVec.ofNat 16 (leNat (leBytes 2 w.toNat)) = w := by
  rw [leNat_leBytes, Nat.mod_eq_of_lt (show w.toNat < 256 ^ 2 from w.isLt), BitVec.ofNat_toNat, BitVec.setWidth_eq]

theorem word_leBytes (w : Word) : BitVec.ofNat 32 (leNat (leBytes 4 w.toNat)) = w := by
  rw [leNat_leBytes, Nat.mod_eq_of_lt (show w.toNat < 256 ^ 4 from w.isLt), BitVec.ofNat_toNat, BitVec.setWidth_eq]

theorem byteAt_append_left {bs cs : List Byte} {i : Nat} (h : i < bs.length) : byteAt (bs ++ cs) i = byteAt bs i := by
  simp [byteAt, List.getD, List.getElem?_append_left h]

theorem byteAt_drop (bs : List Byte) (n i : Nat) : byteAt (bs.drop n) i = byteAt bs (n + i) := by
  simp [byteAt, List.getD]

theorem byteAt_take {bs : List Byte} {n i : Nat} (h : i < n) : byteAt (bs.take n) i = byteAt bs i := by
  simp [byteAt, List.getD, List.getElem?_take_of_lt h]

theorem toList_packBytes {n : Nat} {bs : List Byte} (h : bs.length = n) : (packBytes n bs).toList = bs := by
  refine List.ext_getElem (by rw [packBytes, length_bytesOf, h]) fun i _ hi => ?_
  simp [packBytes, toList_bytesOf, byteAt, hi]

/-! ### The check word (R173) -/

theorem checkShift_lt {r : Nat} (h : r < 65536) : checkShift r < 65536 := by
  unfold checkShift
  split
  · omega
  · exact Nat.xor_lt_two_pow (n := 16) (Nat.mod_lt _ (by decide)) (by decide)

theorem checkShifts_lt (n : Nat) {r : Nat} (h : r < 65536) : checkShifts n r < 65536 := by
  induction n generalizing r with
  | zero => exact h
  | succ n ih => cases r <;> exact ih (checkShift_lt h)

theorem checkByte_lt {r : Nat} (h : r < 65536) (b : Byte) : checkByte r b < 65536 :=
  checkShifts_lt 8 (Nat.xor_lt_two_pow (n := 16) h (by have := b.isLt; omega))

theorem checkFrom_lt (bs : List Byte) {r : Nat} (h : r < 65536) : checkFrom r bs < 65536 := by
  induction bs generalizing r with
  | nil => cases r <;> exact h
  | cons b bs ih => cases r <;> exact ih (checkByte_lt h b)

theorem checkWord_lt (bs : List Byte) : checkWord bs < 65536 := checkFrom_lt bs (by decide)

theorem length_checkBytes (bs : List Byte) : (checkBytes bs).length = 2 := length_leBytes 2 _

/-- R173: the check word behind some bytes is read back. -/
theorem halfAt_checkBytes (bs : List Byte) : (halfAt (bs ++ checkBytes bs) bs.length).toNat = checkWord bs := by
  have hfield : ((bs ++ checkBytes bs).drop bs.length).take 2 = checkBytes bs := by
    rw [List.drop_left, List.take_of_length_le (Nat.le_of_eq (length_checkBytes bs))]
  rw [halfAt, hfield, checkBytes, leNat_leBytes, BitVec.toNat_ofNat]
  have := checkWord_lt bs
  omega

theorem checkGood_append {bs : List Byte} {n : Nat} (h : bs.length = n) : checkGood n (bs ++ checkBytes bs) = true := by
  subst h
  rw [checkGood, halfAt_checkBytes, List.take_left]
  exact beq_self_eq_true _

/-! ### Frames from the host (R172, R174) -/

theorem tagOf_ofNat (t : Tag) : tagOf (BitVec.ofNat 8 t) = some t := by
  have h : (BitVec.ofNat 8 t.val).toNat = t.val := toNat_ofNat_fin (by decide) t
  simp [tagOf, h]

/-- R174, R175: the message that a kind byte and a body spell. -/
def messageOf (k : Byte) (body : List Byte) : Option HostMessage :=
  match bodyLength k with
  | none => none
  | some len =>
    if body.length ≠ len then none
    else if k = 4 then some .reset
    else
      match tagOf (byteAt body 0) with
      | none => none
      | some t =>
        if k = 1 then some (.req (requestOf t body))
        else if k = 2 then some (.data t (halfAt body 2) (packBytes 512 (body.drop 4)))
        else some (.cancel t)

/-- R174: a frame is judged by its length and its check word, and then by its kind byte and its body. -/
theorem hostMessage_eq (frame : List Byte) : hostMessage frame =
    if frame.length < 3 ∨ checkGood (frame.length - 2) frame = false then none
    else messageOf (byteAt frame 0) ((frame.take (frame.length - 2)).drop 1) := rfl

theorem hostMessage_checked (k : Byte) (body : List Byte) :
    hostMessage (k :: body ++ checkBytes (k :: body)) = messageOf k body := by
  have hlen : (k :: body ++ checkBytes (k :: body)).length = (k :: body).length + 2 := by
    rw [List.length_append, length_checkBytes]
  have hlong : ¬(k :: body).length + 2 < 3 := by
    rw [List.length_cons]
    omega
  rw [hostMessage_eq, hlen, Nat.add_sub_cancel, checkGood_append rfl, if_neg (by simp), List.take_left]
  rfl

theorem packBytes_toList {n : Nat} (b : Vector Byte n) : packBytes n b.toList = b :=
  Vector.toList_inj.mp (toList_packBytes (Vector.length_toList ..))

/-- R179: the fields of a request record are read back from its bytes. -/
theorem requestOf_body (r : Request) : requestOf r.tag ((messageBody (.req r)).drop 1) = r := by
  have hword (w : Word) : BitVec.ofNat 32 (leNat (leBytes 4 w.toNat)) = w := word_leBytes w
  obtain ⟨tag, unit, code, count, lba, p0, p1, p2⟩ := r
  exact congr (congr (congr (congrArg (Request.mk tag unit code count) (hword lba)) (hword p0)) (hword p1)) (hword p2)

/-- R175: each message is what its kind byte and its body spell. -/
theorem messageOf_req (r : Request) : messageOf 1 ((messageBody (.req r)).drop 1) = some (.req r) := by
  have htag : tagOf (byteAt ((messageBody (.req r)).drop 1) 0) = some r.tag := tagOf_ofNat r.tag
  have hlen : ((messageBody (.req r)).drop 1).length = 20 := rfl
  have hkind : bodyLength 1 = some 20 := rfl
  simp only [messageOf, hkind, hlen, htag, requestOf_body]
  rfl

theorem messageOf_data (t : Tag) (off : Half) (b : Block) :
    messageOf 2 ((messageBody (.data t off b)).drop 1) = some (.data t off b) := by
  have htag : tagOf (byteAt ((messageBody (.data t off b)).drop 1) 0) = some t := tagOf_ofNat t
  have hlen : ((messageBody (.data t off b)).drop 1).length = 516 := by
    simp [messageBody, length_leBytes]
  have hoff : halfAt ((messageBody (.data t off b)).drop 1) 2 = off := half_leBytes off
  have hpayload : packBytes 512 (((messageBody (.data t off b)).drop 1).drop 4) = b := packBytes_toList b
  have hkind : bodyLength 2 = some 516 := rfl
  simp only [messageOf, hkind, hlen, htag, hoff, hpayload]
  rfl

theorem messageOf_cancel (t : Tag) : messageOf 3 [BitVec.ofNat 8 t] = some (.cancel t) := by
  have htag : tagOf (byteAt [BitVec.ofNat 8 t] 0) = some t := tagOf_ofNat t
  have hkind : bodyLength 3 = some 1 := rfl
  simp only [messageOf, hkind, htag]
  rfl

/-- Settles O27: the check word is read back, and then the kind, the tag and the fields of each message. -/
theorem framesReadBack : Obligations.FramesReadBack := by
  intro m
  cases m with
  | req r => exact (hostMessage_checked 1 _).trans (messageOf_req r)
  | data t off b => exact (hostMessage_checked 2 _).trans (messageOf_data t off b)
  | cancel t => exact (hostMessage_checked 3 _).trans (messageOf_cancel t)
  | reset => exact hostMessage_checked 4 []

/-! ### Frames that a test discards, and requests that name no kind or no action (R26, R92, R174) -/

theorem bodyLength_iff (k : Byte) (n : Nat) : bodyLength k = some n ↔
    k = 1 ∧ n = 20 ∨ k = 2 ∧ n = 516 ∨ k = 3 ∧ n = 1 ∨ k = 4 ∧ n = 0 := by
  have hk (j : Nat) (hj : j < 256) : k = BitVec.ofNat 8 j ↔ k.toNat = j := by
    rw [← BitVec.toNat_inj, BitVec.toNat_ofNat, Nat.mod_eq_of_lt hj]
  rw [show (1 : Byte) = BitVec.ofNat 8 1 from rfl, show (2 : Byte) = BitVec.ofNat 8 2 from rfl,
    show (3 : Byte) = BitVec.ofNat 8 3 from rfl, show (4 : Byte) = BitVec.ofNat 8 4 from rfl,
    hk 1 (by decide), hk 2 (by decide), hk 3 (by decide), hk 4 (by decide)]
  unfold bodyLength
  split <;> grind

theorem tagOf_eq_none_iff (b : Byte) : tagOf b = none ↔ ¬b.toNat ≤ 15 := by
  unfold tagOf
  split <;> simp <;> omega

theorem tagOf_eq_some {b : Byte} {t : Tag} (h : b.toNat = t.val) : tagOf b = some t := by
  simp [tagOf, h]

/-- R174: the tests of a frame. -/
def FrameGood (frame : List Byte) : Prop :=
  3 ≤ frame.length ∧ (halfAt frame (frame.length - 2)).toNat = checkWord (frame.take (frame.length - 2)) ∧
    (byteAt frame 0 = 1 ∧ frame.length - 2 = 21 ∨ byteAt frame 0 = 2 ∧ frame.length - 2 = 517 ∨
      byteAt frame 0 = 3 ∧ frame.length - 2 = 2 ∨ byteAt frame 0 = 4 ∧ frame.length - 2 = 1) ∧
    (byteAt frame 0 = 4 ∨ (byteAt frame 1).toNat ≤ 15)

theorem frameBody_length (frame : List Byte) :
    ((frame.take (frame.length - 2)).drop 1).length = frame.length - 2 - 1 := by
  rw [List.length_drop, List.length_take, Nat.min_eq_left (Nat.sub_le _ _)]

/-- Byte `i` of the body of a frame, its kind byte in front and its check word behind. -/
theorem byteAt_frameBody {frame : List Byte} {i : Nat} (h : i + 1 < frame.length - 2) :
    byteAt ((frame.take (frame.length - 2)).drop 1) i = byteAt frame (i + 1) := by
  rw [byteAt_drop, Nat.add_comm, byteAt_take h]

theorem wordAt_frameBody {frame : List Byte} {i : Nat} (h : i + 5 ≤ frame.length - 2) :
    wordAt ((frame.take (frame.length - 2)).drop 1) i = wordAt frame (i + 1) := by
  rw [wordAt, wordAt, List.drop_drop, List.drop_take, List.take_take, Nat.min_eq_left (by omega), Nat.add_comm]

theorem checkGood_iff (n : Nat) (bs : List Byte) :
    checkGood n bs = true ↔ (halfAt bs n).toNat = checkWord (bs.take n) := beq_iff_eq

/-- R174: a frame that fails a test spells no message. -/
theorem hostMessage_of_not_good {frame : List Byte} (h : ¬FrameGood frame) : hostMessage frame = none := by
  rw [hostMessage_eq]
  by_cases hframe : frame.length < 3 ∨ checkGood (frame.length - 2) frame = false
  · rw [if_pos hframe]
  · rw [if_neg hframe]
    rw [not_or, Bool.not_eq_false, checkGood_iff] at hframe
    obtain ⟨hlong, hcheck⟩ := hframe
    have hbody := frameBody_length frame
    unfold messageOf
    cases hkind : bodyLength (byteAt frame 0) with
    | none => rfl
    | some len =>
      rw [bodyLength_iff] at hkind
      by_cases hlen : frame.length - 2 - 1 = len
      · have htest : ¬(byteAt frame 0 = 4 ∨ (byteAt frame 1).toNat ≤ 15) := fun htag =>
          h ⟨by omega, hcheck, by grind, htag⟩
        rw [not_or] at htest
        obtain ⟨hnot4, htag⟩ := htest
        have hone : byteAt ((frame.take (frame.length - 2)).drop 1) 0 = byteAt frame 1 :=
          byteAt_frameBody (by simp only [hnot4, false_and, or_false] at hkind; omega)
        simp only [hnot4, hone, (tagOf_eq_none_iff _).mpr htag, if_false, ite_self]
      · simp only [hbody, ne_eq, hlen, not_false_eq_true, if_true]

/-- R174: a REQ frame that passes the tests spells the request record of its body. -/
theorem hostMessage_req {frame : List Byte} {t : Tag} (h : FrameGood frame) (hkind : byteAt frame 0 = 1)
    (ht : (byteAt frame 1).toNat = t.val) :
    frame.length - 2 = 21 ∧
      hostMessage frame = some (.req (requestOf t ((frame.take (frame.length - 2)).drop 1))) := by
  obtain ⟨hlong, hcheck, hlen, -⟩ := h
  have h21 : frame.length - 2 = 21 := by
    rw [hkind] at hlen
    obtain ⟨-, hlen⟩ | ⟨hk, -⟩ | ⟨hk, -⟩ | ⟨hk, -⟩ := hlen
    · exact hlen
    all_goals exact absurd hk (by decide)
  have hbody : ((frame.take (frame.length - 2)).drop 1).length = 20 := by rw [frameBody_length, h21]
  have htag : tagOf (byteAt ((frame.take (frame.length - 2)).drop 1) 0) = some t := by
    rw [byteAt_frameBody (by omega)]
    exact tagOf_eq_some ht
  have hlength : bodyLength 1 = some 20 := rfl
  refine ⟨h21, ?_⟩
  rw [hostMessage_eq, if_neg (by rw [not_or, Bool.not_eq_false, checkGood_iff]; exact ⟨by omega, hcheck⟩), hkind]
  simp only [messageOf, hlength, hbody, htag, ne_eq, not_true_eq_false, if_false, if_true]
  rfl

/-- R26: the refusal of a request whose kind code names no kind. -/
theorem arrivalCheck_unknown {r : Request} (h : kindOf r.code = none) :
    arrivalCheck r = some (if r.unit.toNat ≤ 3 ∨ r.unit = 7 then .badKind else .badUnit) := by
  by_cases hunit : r.unit.toNat ≤ 3 ∨ r.unit = 7
  · simp only [arrivalCheck, if_neg (goodUnit_iff hunit), h, if_pos hunit]
  · rw [arrivalCheck_badUnit hunit, if_neg hunit]

/-- R92: a PORT request of an action that is neither OFFLINE nor ONLINE. -/
theorem mguPort_badAction {t : Tag} {e : Entry} (h : 1 < e.p1.toNat) (s : State) :
    mguPort t e s = complete t .refused .badParam 0 0 s := by
  have h0 : e.p1 ≠ 0 := fun h0 => by simp [h0] at h
  have h1 : e.p1 ≠ 1 := fun h1 => by simp [h1] at h
  unfold mguPort
  split
  · rfl
  · rw [if_neg h0, if_neg h1]

theorem exec_badFrame {s u : State} (hs : StandsAt s u) (frame : List Byte) :
    exec (.badFrame frame) s = .next (finish (frameArrives frame u)) := by
  rw [← event_at hs]
  rfl

/-- Settles O26: a frame that spells no message, and the two requests that only a raw frame can bring. -/
theorem badFrameHandled : Obligations.BadFrameHandled := by
  intro s u frame hs n kind good
  refine ⟨fun hbad => ?discarded, fun t hgood hkind ht he => ?request⟩
  case discarded =>
    have hnone : hostMessage frame = none := hostMessage_of_not_good hbad
    rw [exec_badFrame hs]
    simp only [frameArrives, hnone]
    rfl
  case request =>
    obtain ⟨h21, hmessage⟩ := hostMessage_req hgood hkind ht
    generalize hr : requestOf t ((frame.take (frame.length - 2)).drop 1) = r at hmessage
    have htag : r.tag = t := by rw [← hr]; rfl
    have hunit : r.unit = byteAt frame 2 := by rw [← hr]; exact byteAt_frameBody (by omega)
    have hcode : r.code = byteAt frame 3 := by rw [← hr]; exact byteAt_frameBody (by omega)
    have hp1 : r.p1 = wordAt frame 13 := by rw [← hr]; exact wordAt_frameBody (by omega)
    have hexec : exec (.badFrame frame) s = .next (finish (requestArrives r u)) := by
      rw [exec_badFrame hs]
      simp only [frameArrives, hmessage, dispatchMessage]
    rw [hexec]
    refine ⟨fun hunknown => ?_, fun hport h7 htaken haction => ?_⟩
    · rw [← hcode] at hunknown
      have hremaining : arrivalRemaining r = 0 := by simp only [arrivalRemaining, hunknown]
      rw [requestArrives_refused (by rw [htag]; exact he) (arrivalCheck_unknown hunknown), hremaining, htag, hunit]
      rfl
    · have hk : kindOf r.code = some .port := by rw [hcode, hport]; rfl
      have hacts := requestArrives_taken (by rw [htag]; exact htaken) hk rfl (by rw [hunit, h7])
      rw [hacts, htag]
      have hrefused : mguActs t (freshEntry .active .port 7 0 0 r.p0 r.p1 r.p2 [])
          (takeManagement t .port r.p0 r.p1 r.p2 u) =
            complete t .refused .badParam 0 0 (takeManagement t .port r.p0 r.p1 r.p2 u) :=
        mguPort_badAction (by rw [← hp1] at haction; exact haction) _
      rw [hrefused]
      exact ⟨_, rfl, refused_at_once ..⟩

end Sys2Proof.Machine
end

section
/-! SUPPORT. Extent records in their bytes (R181): written and read back in the store (R131, R141, R183), and shown by
MAP READ (R125). -/

namespace Sys2Proof.Machine

/-! ### Fields of a window of bytes -/

theorem leNat_lt (bs : List Byte) : leNat bs < 256 ^ bs.length := by
  induction bs with
  | nil => exact Nat.one_pos
  | cons b bs ih =>
    have hb : b.toNat < 256 := b.isLt
    rw [leNat, List.length_cons, Nat.pow_succ]
    omega

theorem leBytes_leNat (bs : List Byte) : leBytes bs.length (leNat bs) = bs := by
  induction bs with
  | nil => rfl
  | cons b bs ih =>
    have hb : b.toNat < 256 := b.isLt
    have hlow : BitVec.ofNat 8 (b.toNat + 256 * leNat bs) = b := by
      apply BitVec.eq_of_toNat_eq
      rw [BitVec.toNat_ofNat]
      omega
    rw [List.length_cons, leNat, leBytes, hlow, Nat.add_mul_div_left _ _ (by decide), Nat.div_eq_of_lt hb, Nat.zero_add,
      ih]

theorem leBytes_wordAt {bs : List Byte} {i : Nat} (h : i + 4 ≤ bs.length) :
    leBytes 4 (wordAt bs i).toNat = (bs.drop i).take 4 := by
  have hlen : ((bs.drop i).take 4).length = 4 := by rw [List.length_take, List.length_drop]; omega
  have hlt : leNat ((bs.drop i).take 4) < 2 ^ 32 := by
    have := leNat_lt ((bs.drop i).take 4)
    rw [hlen] at this
    exact this
  rw [wordAt, BitVec.toNat_ofNat, Nat.mod_eq_of_lt hlt]
  have hbytes := leBytes_leNat ((bs.drop i).take 4)
  rw [hlen] at hbytes
  exact hbytes

theorem byteAt_window {bs : List Byte} {a n i : Nat} (h : i < n) :
    byteAt ((bs.drop a).take n) i = byteAt bs (a + i) := by
  rw [byteAt_take h, byteAt_drop]

theorem wordAt_window {bs : List Byte} {a n i : Nat} (h : i + 4 ≤ n) :
    wordAt ((bs.drop a).take n) i = wordAt bs (a + i) := by
  rw [wordAt, wordAt, List.drop_take, List.take_take, List.drop_drop, Nat.min_eq_left (by omega)]

theorem toList_packBytes_pad {n : Nat} {bs : List Byte} (h : bs.length ≤ n) :
    (packBytes n bs).toList = bs ++ List.replicate (n - bs.length) 0 := by
  refine List.ext_getElem (by rw [packBytes, length_bytesOf, List.length_append, List.length_replicate]; omega)
    fun i _ hi => ?_
  simp only [packBytes, toList_bytesOf, List.getElem_map, List.getElem_range, byteAt, List.getElem_append,
    List.getElem_replicate, List.getD_eq_getElem?_getD]
  split
  · next hlt => simp [hlt]
  · next hlt => simp [List.getElem?_eq_none (Nat.le_of_not_lt hlt)]

/-! ### The bytes of an extent record (R181) -/

theorem length_encodeExtent (e : Extent) : (encodeExtent e).length = 16 := by
  simp [encodeExtent, length_leBytes]

theorem attributes_read (policy : BitVec 2) (verify moving : Bool) :
    let b := policy.setWidth 8 ||| (bit verify <<< 2) ||| (bit moving <<< 3)
    b.setWidth 2 = policy ∧ b.getLsbD 2 = verify ∧ b.getLsbD 3 = moving ∧
      b.toNat = policy.toNat + (if verify then 4 else 0) + (if moving then 8 else 0) := by
  revert policy verify moving
  decide

/-- R181: the lower three bits of an attributes byte, as a record holds them. -/
theorem attributes_mask (b : Byte) :
    (b.setWidth 2).setWidth 8 ||| (bit (b.getLsbD 2) <<< 2) ||| (bit false <<< 3) = b &&& 7 := by
  revert b
  decide

/-- R181: a record is read back from its bytes. -/
theorem decodeExtent_encodeExtent (e : Extent) : decodeExtent (encodeExtent e) = e := by
  obtain ⟨hpolicy, hverify, hmoving, -⟩ := attributes_read e.policy e.verify e.moving
  have hl : wordAt (encodeExtent e) 4 = e.lstart := word_leBytes e.lstart
  have hn : wordAt (encodeExtent e) 8 = e.length := word_leBytes e.length
  have hp : wordAt (encodeExtent e) 12 = e.pstart := word_leBytes e.pstart
  have ha : byteAt (encodeExtent e) 3 = attributes e := rfl
  rw [decodeExtent, hl, hn, hp, ha]
  simp only [attributes, hpolicy, hverify, hmoving]
  rfl

/-- R181: where the bytes of a record stand, the record stands. -/
theorem recordAt_of_window {bs : List Byte} {a : Nat} {x : Extent} (h : (bs.drop a).take 16 = encodeExtent x) :
    RecordAt bs a x := by
  have hbyte {i : Nat} (hi : i < 16) : byteAt bs (a + i) = byteAt (encodeExtent x) i := by rw [← h, byteAt_window hi]
  have hword {i : Nat} (hi : i + 4 ≤ 16) : wordAt bs (a + i) = wordAt (encodeExtent x) i := by
    rw [← h, wordAt_window hi]
  refine ⟨hbyte (i := 0) (by decide), hbyte (by decide), hbyte (by decide), ?_, ?_, ?_, ?_⟩
  · rw [hbyte (by decide)]
    exact (attributes_read x.policy x.verify x.moving).2.2.2
  · exact (hword (by decide)).trans (word_leBytes x.lstart)
  · exact (hword (by decide)).trans (word_leBytes x.length)
  · exact (hword (by decide)).trans (word_leBytes x.pstart)

/-- R125: a record that 16 bytes hold, shown with move state NORMAL, has the bytes but for the upper bits of the attributes. -/
theorem byteAt_shown {bs : List Byte} (h : bs.length = 16) {j : Nat} (hj : j < 16) :
    byteAt (encodeExtent { decodeExtent bs with moving := false }) j =
      if j = 3 then byteAt bs j &&& 7 else byteAt bs j := by
  have hfour : ∀ i, i + 4 ≤ 16 → leBytes 4 (wordAt bs i).toNat = (bs.drop i).take 4 := fun i hi =>
    leBytes_wordAt (by rw [h]; exact hi)
  have hbytes : encodeExtent { decodeExtent bs with moving := false } =
      [byteAt bs 0, byteAt bs 1, byteAt bs 2, byteAt bs 3 &&& 7] ++ (bs.drop 4).take 4 ++ (bs.drop 8).take 4 ++
        (bs.drop 12).take 4 := by
    rw [← hfour 4 (by decide), ← hfour 8 (by decide), ← hfour 12 (by decide), ← attributes_mask]
    rfl
  have h12 : (bs.drop 12).take 4 = bs.drop 12 := List.take_of_length_le (by simp [h])
  have hstep (i : Nat) : (bs.drop i).take 4 ++ bs.drop (i + 4) = bs.drop i := by
    rw [← List.drop_drop, List.take_append_drop]
  rw [hbytes, List.append_assoc, List.append_assoc, h12, hstep 8, hstep 4]
  match j with
  | 0 | 1 | 2 | 3 => rfl
  | j + 4 =>
    show byteAt (bs.drop 4) j = _
    rw [byteAt_drop, if_neg (by omega), Nat.add_comm]

/-! ### A run of records -/

theorem length_records (rs : List Extent) : (rs.flatMap encodeExtent).length = 16 * rs.length := by
  induction rs with
  | nil => rfl
  | cons r rs ih => rw [List.flatMap_cons, List.length_append, ih, length_encodeExtent, List.length_cons]; omega

/-- R181: record `j` of a run stands at bytes 16 * j. -/
theorem records_window {rs : List Extent} {j : Nat} (h : j < rs.length) (tail : List Byte) :
    ((rs.flatMap encodeExtent ++ tail).drop (16 * j)).take 16 = encodeExtent rs[j] := by
  induction rs generalizing j with
  | nil => exact absurd h (Nat.not_lt_zero j)
  | cons r rs ih =>
    have hr := length_encodeExtent r
    cases j with
    | zero =>
      rw [List.flatMap_cons, List.append_assoc, Nat.mul_zero, List.drop_zero, List.take_left' hr]
      rfl
    | succ j =>
      rw [List.flatMap_cons, List.append_assoc, Nat.mul_succ, Nat.add_comm, ← List.drop_drop,
        List.drop_left' hr, ih (Nat.lt_of_succ_lt_succ h)]
      rfl

theorem encodeExtent_empty : encodeExtent Extent.empty = List.replicate 16 0 := by decide

theorem records_empty (n : Nat) :
    (List.replicate n Extent.empty).flatMap encodeExtent = List.replicate (16 * n) 0 := by
  induction n with
  | zero => rfl
  | succ n ih =>
    rw [List.replicate_succ, List.flatMap_cons, ih, encodeExtent_empty, List.replicate_append_replicate]
    congr 1
    omega

/-- R181: a data block holds its records, and empty ones behind the last. -/
theorem recordsBlock_window {rs : List Extent} (hrs : rs.length ≤ 32) {j : Nat} (hj : j < 32) :
    ((recordsBlock rs).toList.drop (16 * j)).take 16 = encodeExtent (rs.getD j Extent.empty) := by
  have hlen : (rs.flatMap encodeExtent).length ≤ 512 := by rw [length_records]; omega
  have hpad : (recordsBlock rs).toList =
      (rs ++ List.replicate (32 - rs.length) Extent.empty).flatMap encodeExtent ++ [] := by
    rw [recordsBlock, List.take_of_length_le hrs, toList_packBytes_pad hlen, List.flatMap_append, records_empty,
      length_records, List.append_nil]
    congr 2
    omega
  have hj' : j < (rs ++ List.replicate (32 - rs.length) Extent.empty).length := by
    rw [List.length_append, List.length_replicate]
    omega
  rw [hpad, records_window hj']
  refine congrArg encodeExtent ?_
  rw [List.getElem_append, List.getD_eq_getElem?_getD]
  split
  · next hlt => rw [List.getElem?_eq_getElem hlt, Option.getD_some]
  · next hlt => rw [List.getElem_replicate, List.getElem?_eq_none (Nat.le_of_not_lt hlt), Option.getD_none]

/-! ### MAP READ (R125) -/

/-- R125: record `i` of the window stands in block `i / 32`, and an empty one behind the last. -/
theorem windowBlock_window (tab : MapTable) (first count : Nat) (s : State) {i : Nat} :
    ((windowBlock tab first count (i / 32) s).toList.drop (16 * (i % 32))).take 16 =
      encodeExtent (if i < count then tableRecord tab s (first + i) else Extent.empty) := by
  have hmod : i % 32 < 32 := Nat.mod_lt _ (by decide)
  have hsplit : 32 * (i / 32) + i % 32 = i := Nat.div_add_mod i 32
  rw [windowBlock, recordsBlock_window (by rw [List.length_map, List.length_range]; exact Nat.min_le_left _ _) hmod]
  refine congrArg encodeExtent ?_
  rw [List.getD_eq_getElem?_getD]
  split
  · next hi => 
    have hj : i % 32 < min 32 (count - 32 * (i / 32)) := by omega
    rw [List.getElem?_map, List.getElem?_range hj, Option.map_some, Option.getD_some, Nat.add_assoc, hsplit]
  · next hi =>
    have hj : min 32 (count - 32 * (i / 32)) ≤ i % 32 := by omega
    rw [List.getElem?_eq_none (by rw [List.length_map, List.length_range]; exact hj), Option.getD_none]

theorem tableOf_iff (selector : Word) (tab : MapTable) : tableOf selector = some tab ↔
    selector.toNat = (match tab with | .active => 0 | .staging => 1 | .store => 2) := by
  unfold tableOf
  split <;> cases tab <;> grind

theorem tableOf_eq_none_iff (selector : Word) : tableOf selector = none ↔ ¬selector.toNat ≤ 2 := by
  unfold tableOf
  split <;> grind

/-- R125: a MAP READ of a table that the selector does not name. -/
theorem readRefusal_noTable {e : Entry} (h : tableOf e.p0 = none) (s : State) : readRefusal e s = some .badParam := by
  simp only [readRefusal, h]

/-- R125: the checks of a MAP READ of a table, in their order. -/
theorem readRefusal_table {e : Entry} {tab : MapTable} (h : tableOf e.p0 = some tab) (s : State) : readRefusal e s =
    if !windowGood e.p1 e.p2 then some .badParam
    else if tab = .staging ∧ !s.xmp.stagingOpen then some .notOpen
    else if tab = .store ∧ storeBusy s then some .saveActive
    else none := by
  simp only [readRefusal, h]

theorem getD_toList (m : ExtMap) (k : Fin 64) : m.toList.getD k.val Extent.empty = m[k] := by
  simp

theorem tableRecord_active (u : State) {n : Nat} {k : Fin 64} (h : n = k.val) :
    tableRecord .active u n = u.xmp.active[k] := by
  subst h
  exact getD_toList _ k

theorem tableRecord_staging (u : State) {n : Nat} {k : Fin 64} (h : n = k.val) :
    tableRecord .staging u n = u.xmp.staging[k] := by
  subst h
  exact getD_toList _ k

theorem blocksFor_eq (count : Nat) : blocksFor count = if count ≤ 32 then 1 else 2 := rfl

/-- R125: the frames and the buffer of an accepted MAP READ. -/
theorem sendWindow_eq (t : Tag) (tab : MapTable) (first count : Nat) (v : State) :
    sendWindow t tab first count v = (v.setMgu { v.mgu with
        exec := .dataOut, executing := some (t, .mapRead)
        buffer := #v[some (windowBlock tab first count 0 v),
          if count ≤ 32 then none else some (windowBlock tab first count 1 v)] }).setUlc
      { v.ulc with tx := v.ulc.tx ++
        if count ≤ 32 then [.mgmtData t 0 (windowBlock tab first count 0 v)]
        else [.mgmtData t 0 (windowBlock tab first count 0 v), .mgmtData t 1 (windowBlock tab first count 1 v)] } := by
  unfold sendWindow
  dsimp only
  rw [blocksFor_eq]
  split
  · rfl
  · rw [if_pos rfl]
    simp only [handFrame, fillBuffer, mguHolds, emptyBuffer, State.setUlc, State.setMgu, List.append_assoc,
      List.cons_append, List.nil_append]
    rfl

/-- R125: what the bytes of a window show of the table that the selector names. -/
theorem windowBlock_shows {tab : MapTable} {selector first count : Word} (htab : tableOf selector = some tab)
    (hend : first.toNat + count.toNat ≤ 64) (u : State) (i : Fin 64) :
    let bs := (windowBlock tab first.toNat count.toNat (i.val / 32) u).toList
    let a := 16 * (i.val % 32)
    let k : Fin 64 := Fin.ofNat 64 (first.toNat + i.val)
    (count.toNat ≤ i.val → RecordAt bs a Extent.empty) ∧
    (i.val < count.toNat → selector.toNat = 0 → RecordAt bs a u.xmp.active[k]) ∧
    (i.val < count.toNat → selector.toNat = 1 → RecordAt bs a u.xmp.staging[k]) ∧
    (i.val < count.toNat → selector.toNat = 2 → ∀ j, j < 16 →
      let stored := byteAt (u.mst.rows[(Fin.ofNat 8 (k.val / 8))]).toList (16 * (k.val % 8) + j)
      byteAt bs (a + j) = if j = 3 then stored &&& 7 else stored) := by
  intro bs a k
  have hwindow : (bs.drop a).take 16 = _ := windowBlock_window tab first.toNat count.toNat u (i := i.val)
  have hk (hi : i.val < count.toNat) : first.toNat + i.val = k.val :=
    (Nat.mod_eq_of_lt (by omega : first.toNat + i.val < 64)).symm
  rw [tableOf_iff] at htab
  refine ⟨fun hi => recordAt_of_window ?_, fun hi h0 => recordAt_of_window ?_, fun hi h1 => recordAt_of_window ?_,
    fun hi h2 j hj => ?_⟩
  · rw [hwindow, if_neg (Nat.not_lt.mpr hi)]
  · obtain rfl : tab = .active := by cases tab <;> simp_all
    rw [hwindow, if_pos hi]
    exact congrArg encodeExtent (tableRecord_active u (hk hi))
  · obtain rfl : tab = .staging := by cases tab <;> simp_all
    rw [hwindow, if_pos hi]
    exact congrArg encodeExtent (tableRecord_staging u (hk hi))
  · obtain rfl : tab = .store := by cases tab <;> simp_all
    have hrow : (recordBytes (u.mst.rows[(Fin.ofNat 8 (k.val / 8))]).toList (k.val % 8)).length = 16 := by
      rw [recordBytes, List.length_take, List.length_drop, Vector.length_toList]
      omega
    intro stored
    have hshown : stored = byteAt (recordBytes (u.mst.rows[(Fin.ofNat 8 (k.val / 8))]).toList (k.val % 8)) j :=
      (byteAt_window hj).symm
    rw [hshown, ← byteAt_window (n := 16) hj, hwindow, if_pos hi]
    exact (congrArg (fun n => byteAt (encodeExtent (tableRecord .store u n)) j) (hk hi)).trans (byteAt_shown hrow hj)

/-- Settles O18: the checks of R125 in their order, and record by record the blocks of the window. -/
theorem mapReadTaken : Obligations.MapReadTaken := by
  intro s u t selector first count hs ht window good
  have hwindow : windowGood first count = true ↔ window := windowGood_iff first count
  let e := freshEntry .active .mapRead 7 0 0 selector first count []
  let v := takeManagement t .mapRead selector first count u
  have htable {tab : MapTable} (htab : tableOf selector = some tab) : readRefusal e v =
      if !windowGood first count then some .badParam
      else if tab = .staging ∧ !u.xmp.stagingOpen then some .notOpen
      else if tab = .store ∧ storeBusy u then some .saveActive
      else none := readRefusal_table htab v
  refine ⟨fun cause hcase => ?refused, fun hgood hopen hop => ?sent⟩
  case refused =>
    have hcause : readRefusal e v = some cause := by
      cases htab : tableOf selector with
      | none =>
        have hbad : ¬good := fun hgood => (tableOf_eq_none_iff selector).mp htab hgood.1
        obtain ⟨-, rfl⟩ | ⟨hgood, -⟩ | ⟨hgood, -⟩ := hcase
        · exact readRefusal_noTable htab v
        · exact absurd hgood hbad
        · exact absurd hgood hbad
      | some tab =>
        have hselector : selector.toNat ≤ 2 := by
          rw [← Classical.not_not (a := selector.toNat ≤ 2), ← tableOf_eq_none_iff, htab]
          nofun
        rw [htable htab]
        rw [tableOf_iff] at htab
        obtain ⟨hbad, rfl⟩ | ⟨⟨-, hgood⟩, h1, hclosed, rfl⟩ | ⟨⟨-, hgood⟩, h2, hbusy, rfl⟩ := hcase
        · have hnot : windowGood first count = false :=
            Bool.eq_false_iff.mpr fun h => hbad ⟨hselector, hwindow.mp h⟩
          simp [hnot]
        · obtain rfl : tab = .staging := by cases tab <;> simp_all
          simp [hwindow.mpr hgood, hclosed]
        · obtain rfl : tab = .store := by cases tab <;> simp_all
          simp [hwindow.mpr hgood, (storeBusy_iff u).mpr hbusy]
    refine exec_refused (d := 0) hs ht rfl rfl ?_
    show mguMapRead t e v = _
    simp only [mguMapRead, hcause]
    rfl
  case sent =>
    obtain ⟨hselector, hgood⟩ := hgood
    obtain ⟨tab, htab⟩ : ∃ tab, tableOf selector = some tab := by
      rw [← Option.isSome_iff_exists, Option.isSome_iff_ne_none, ne_eq, tableOf_eq_none_iff, Classical.not_not]
      exact hselector
    have hnone : readRefusal e v = none := by
      rw [htable htab]
      rw [tableOf_iff] at htab
      cases tab
      · simp [hwindow.mpr hgood]
      · simp [hwindow.mpr hgood, hopen htab]
      · simp [hwindow.mpr hgood, storeBusy_eq_false (hop htab)]
    have hacts : mguMapRead t e v = sendWindow t tab first.toNat count.toNat v := by
      have hp0 : tableOf e.p0 = some tab := htab
      simp only [mguMapRead, hnone, hp0]
      rfl
    refine ⟨fun b => windowBlock tab first.toNat count.toNat b.val v, fun i _ => ?_, ?_⟩
    · have hblock : (Fin.ofNat 2 (i.val / 32)).val = i.val / 32 := Nat.mod_eq_of_lt (by omega)
      simp only [hblock]
      exact windowBlock_shows htab hgood.2.2.2 v i
    · rw [exec_taken (k := .mapRead) (p0 := selector) (p1 := first) (p2 := count) hs ht rfl rfl]
      exact congrArg (fun w => Host.Outcome.next (finish w)) (hacts.trans (sendWindow_eq t tab _ _ v))

end Sys2Proof.Machine
end

section
/-! SUPPORT. What every event brings with it (R59, R101): the heads of the ports are taken, and the blocking set of the
chunk in flight keeps the tags that still block. -/

namespace Sys2Proof.Machine

/-! ### The head of a port queue (R59) -/

theorem serveHead_notReady {s : State} {p : PortId}
    (h : ¬((portOf p s).state = .ready ∧ (portOf p s).outstanding = none ∧ (portOf p s).offlinePending = .no)) :
    serveHead s p = s := if_neg h

theorem serveHead_noHead {s : State} {p : PortId} (h : headOf p s = none) : serveHead s p = s := by
  simp [serveHead, h]

theorem serveHead_waits {s : State} {p : PortId} {id : PieceId} {q : Piece} (h : headOf p s = some (id, q))
    (hc : headCommand q = none) : serveHead s p = s := by
  simp [serveHead, h, hc]

/-- R59, R75: the part once port `p` has sent the command `op` of its head, which is now `q`. -/
def headSent (p : PortId) (id : PieceId) (q : Piece) (op : MediaOp) (dest : Bool) (s : State) : State :=
  ((s.setPsc { s.psc with pieces := s.psc.pieces.set id (some q) }).setPorts (s.ports.set p { portOf p s with
    outstanding := some (.piece id op dest), received := []
    pieceTimer := some (Config.pieceTimeMs s.mgu.settings.timeoutCode) })).setOut { s.out with
      media := s.out.media ++ [(p, .command op (if dest then (q.shadow.map (·.start)).getD 0 else q.start) q.count
        (if op = .wr then q.slots.map fun k => s.spa.slots[k] else []))] }

theorem serveHead_sends {s : State} {p : PortId} {id : PieceId} {q q' : Piece} {op : MediaOp} {dest : Bool}
    (hr : (portOf p s).state = .ready) (ho : (portOf p s).outstanding = none) (hp : (portOf p s).offlinePending = .no)
    (h : headOf p s = some (id, q)) (hc : headCommand q = some (op, dest, q')) :
    serveHead s p = headSent p id q' op dest s := by
  simp only [serveHead, hr, ho, hp, and_self, if_true, h, hc]
  rfl

/-- Settles O55: the head's own command, by its state and kind. -/
theorem headIsServed : Obligations.HeadIsServed := by
  intro s p x
  refine ⟨fun h => ?unserved, fun id q hr ho hp hh => ?served, rfl⟩
  case' served =>
    intro served
    refine ⟨fun op hq hkind => ?source, fun hq hfilled => ?write, fun sh hq hsh hst => ?dest, fun h => ?waits⟩
  case unserved =>
    obtain h | h | h | h := h
    · exact serveHead_notReady fun x => h x.1
    · exact serveHead_notReady fun x => h x.2.1
    · exact serveHead_notReady fun x => h x.2.2
    · exact serveHead_noHead h
  case source =>
    have hc : headCommand q = some (op, false, { q with state := .atMedia }) := by
      obtain ⟨hk, rfl⟩ | ⟨hk, rfl⟩ | ⟨hk | hk, hslots, rfl⟩ := hkind <;> simp_all [headCommand]
    have hop : op ≠ .wr := by
      obtain ⟨-, rfl⟩ | ⟨-, rfl⟩ | ⟨-, -, rfl⟩ := hkind <;> nofun
    rw [serveHead_sends hr ho hp hh hc, headSent, if_neg hop]
    rfl
  case write =>
    have hall : (List.range q.count).all (· ∈ q.filled) = true := by simpa using hfilled
    have hc : headCommand q = some (.wr, false, { q with state := .atMedia }) := by
      simp only [headCommand, hq, hall, if_true]
    rw [serveHead_sends hr ho hp hh hc]
    rfl
  case dest =>
    have hc : headCommand q = some (.wr, true, { q with shadow := some { sh with state := .atMedia } }) := by
      simp only [headCommand, hq, hsh, hst, if_true]
    rw [serveHead_sends hr ho hp hh hc]
    rfl
  case waits =>
    refine serveHead_waits hh ?_
    obtain ⟨hq, hk | ⟨hk | hk, hslots⟩⟩ | ⟨hq, i, hi, hmissing⟩ := h
    · simp only [headCommand, hq, hk]
    · simp only [headCommand, hq, hk, hslots, if_true]
    · simp only [headCommand, hq, hk, hslots, if_true]
    · have hall : (List.range q.count).all (· ∈ q.filled) = false := by
        simpa using ⟨i, hi, hmissing⟩
      simp [headCommand, hq, hall]

/-! ### The blocking set of a chunk (R101) -/

theorem mem_blocksCopy {m : Move} {t : Tag} {e : Entry} {o : Nat} : blocksCopy m t e o = true ↔
    ∃ g ∈ e.segments, g.offset ≤ o ∧ o < g.offset + g.length ∧ (g.target = .single ∨ t ∉ m.dual) := by
  simp [blocksCopy, and_assoc]

theorem blockUnfinished_iff {t : Tag} {e : Entry} {o : Nat} {s : State} : blockUnfinished t e o s = true ↔
    e.cancelTaken = false ∧ cutOffset e ≤ o ∧ o < cutLimit e ∨
      ∃ id q, pieceOf id s = some q ∧ q.owner = .tag t ∧ q.offset ≤ o ∧ o < q.offset + q.count := by
  have hpieces : (piecesWhere (fun p => p.owner = .tag t && p.offset ≤ o && o < p.offset + p.count) s).isEmpty = false ↔
      ∃ id q, pieceOf id s = some q ∧ q.owner = .tag t ∧ q.offset ≤ o ∧ o < q.offset + q.count := by
    rw [List.isEmpty_eq_false_iff_exists_mem]
    simp [mem_piecesWhere, and_assoc]
  simp [blockUnfinished, hpieces, and_assoc]

/-- R101: the model's test names the tags that block the chunk. -/
theorem holdsChunk_iff {m : Move} {t : Tag} {s : State} : holdsChunk m t s = true ↔ BlocksChunk m t s := by
  unfold BlocksChunk
  cases he : entryOf t s with
  | none => simp [holdsChunk, he]
  | some e =>
    cases hc : m.chunk with
    | none => simp [holdsChunk, he, hc]
    | some ch =>
      simp only [holdsChunk, he, hc, moveLba, Bool.and_eq_true, decide_eq_true_iff, List.any_eq_true, List.mem_range,
        mem_blocksCopy, blockUnfinished_iff, Option.some.injEq]
      constructor
      · rintro ⟨⟨hk, hu⟩, i, hi, ⟨hlba, g, hg, h1, h2, h3⟩, h4⟩
        exact ⟨e, ch, i, g, rfl, rfl, hi, hk, hu, of_decide_eq_true hlba, hg, h1, h2, h3, h4⟩
      · rintro ⟨_, _, i, g, rfl, rfl, hi, hk, hu, hlba, hg, h1, h2, h3, h4⟩
        exact ⟨⟨hk, hu⟩, i, hi, ⟨decide_eq_true hlba, g, hg, h1, h2, h3⟩, h4⟩

theorem mem_blocking {m : Move} {t : Tag} {s : State} :
    t ∈ allTags.filter (fun t => holdsChunk m t s) ↔ BlocksChunk m t s := by
  simp [allTags, holdsChunk_iff]

/-! ### What the taking of heads may change -/

/-- The fields of a piece that the taking of heads leaves alone: all but its state and its shadow part. -/
def pieceBody (q : Piece) :=
  (q.owner, q.kind, q.port, q.start, q.count, q.offset, q.verify, q.slots, q.filled, q.failure)

/-- R59: between `s` and `t` heads of READY ports have been taken. -/
structure Served (s t : State) : Prop where
  pending : t.pending = s.pending
  pins : t.pins = s.pins
  ulc : t.ulc = s.ulc
  rqt : t.rqt = s.rqt
  xmp : t.xmp = s.xmp
  spa : t.spa = s.spa
  mve : t.mve = s.mve
  mgu : t.mgu = s.mgu
  mst : t.mst = s.mst
  svm : t.svm = s.svm
  draws : t.draws = s.draws
  sent : t.out.sent = s.out.sent
  media : ∃ l, t.out.media = s.out.media ++ l ∧ ∀ x ∈ l, (portOf x.1 s).state = .ready ∧
    ∃ op pba n data, x.2 = .command op pba n data
  queues : t.psc.queues = s.psc.queues
  waiting : t.psc.waiting = s.psc.waiting
  pieces : ∀ id, (pieceOf id t).map pieceBody = (pieceOf id s).map pieceBody
  ports : ∀ p, portOf p t = portOf p s ∨ (portOf p s).state = .ready ∧ (portOf p s).outstanding = none ∧
    (portOf p s).offlinePending = .no ∧ ∃ id op dest, portOf p t = { portOf p s with
      outstanding := some (.piece id op dest), received := []
      pieceTimer := some (Config.pieceTimeMs s.mgu.settings.timeoutCode) }

theorem Served.refl (s : State) : Served s s :=
  ⟨rfl, rfl, rfl, rfl, rfl, rfl, rfl, rfl, rfl, rfl, rfl, rfl, ⟨[], by simp, nofun⟩, rfl, rfl, fun _ => rfl,
    fun _ => .inl rfl⟩

theorem Served.state {s t : State} (h : Served s t) (p : PortId) : (portOf p t).state = (portOf p s).state := by
  obtain hp | ⟨-, -, -, _, _, _, hp⟩ := h.ports p <;> rw [hp]

theorem Served.trans {s t v : State} (h : Served s t) (k : Served t v) : Served s v where
  pending := k.pending.trans h.pending
  pins := k.pins.trans h.pins
  ulc := k.ulc.trans h.ulc
  rqt := k.rqt.trans h.rqt
  xmp := k.xmp.trans h.xmp
  spa := k.spa.trans h.spa
  mve := k.mve.trans h.mve
  mgu := k.mgu.trans h.mgu
  mst := k.mst.trans h.mst
  svm := k.svm.trans h.svm
  draws := k.draws.trans h.draws
  sent := k.sent.trans h.sent
  media := by
    obtain ⟨l, hl, hready⟩ := h.media
    obtain ⟨l', hl', hready'⟩ := k.media
    refine ⟨l ++ l', by rw [hl', hl, List.append_assoc], fun x hx => ?_⟩
    obtain hx | hx := List.mem_append.mp hx
    · exact hready x hx
    · exact ⟨(h.state x.1).symm.trans (hready' x hx).1, (hready' x hx).2⟩
  queues := k.queues.trans h.queues
  waiting := k.waiting.trans h.waiting
  pieces id := (k.pieces id).trans (h.pieces id)
  ports p := by
    obtain hp | ⟨hr, ho, hno, id, op, dest, hp⟩ := h.ports p
    · obtain hp' | ⟨hr', ho', hno', id', op', dest', hp'⟩ := k.ports p
      · exact .inl (hp'.trans hp)
      · rw [hp, h.mgu] at hp'
        exact .inr ⟨hp ▸ hr', hp ▸ ho', hp ▸ hno', id', op', dest', hp'⟩
    · obtain hp' | ⟨-, ho', -⟩ := k.ports p
      · exact .inr ⟨hr, ho, hno, id, op, dest, hp'.trans hp⟩
      · rw [hp] at ho'
        nomatch ho'

theorem headCommand_body {q q' : Piece} {op : MediaOp} {dest : Bool} (h : headCommand q = some (op, dest, q')) :
    pieceBody q' = pieceBody q := by
  have hall : ∀ x ∈ headCommand q, pieceBody x.2.2 = pieceBody q := by
    unfold headCommand
    repeat' split
    all_goals simp [pieceBody]
  exact hall _ h

theorem headSent_served {p : PortId} {id : PieceId} {q q' : Piece} {op : MediaOp} {dest : Bool} {s : State}
    (hr : (portOf p s).state = .ready) (ho : (portOf p s).outstanding = none) (hp : (portOf p s).offlinePending = .no)
    (hq : pieceOf id s = some q) (hb : pieceBody q' = pieceBody q) : Served s (headSent p id q' op dest s) where
  pending := rfl
  pins := rfl
  ulc := rfl
  rqt := rfl
  xmp := rfl
  spa := rfl
  mve := rfl
  mgu := rfl
  mst := rfl
  svm := rfl
  draws := rfl
  sent := rfl
  media := ⟨_, rfl, by
    intro x hx
    obtain rfl := List.mem_singleton.mp hx
    exact ⟨hr, _, _, _, _, rfl⟩⟩
  queues := rfl
  waiting := rfl
  pieces j := by
    by_cases h : j = id
    · subst h
      have hself : pieceOf j (headSent p j q' op dest s) = some q' := pieceOf_setPiece_self j (some q') s
      rw [hself, hq]
      exact congrArg some hb
    · exact congrArg _ (pieceOf_setPiece_ne h (some q') s)
  ports p' := by
    by_cases h : p' = p
    · subst h
      exact .inr ⟨hr, ho, hp, id, op, dest, Vector.getElem_set_self ..⟩
    · exact .inl (Vector.getElem_set_ne p.isLt p'.isLt fun e => h (Fin.ext e.symm))

theorem headOf_piece {p : PortId} {s : State} {id : PieceId} {q : Piece} (h : headOf p s = some (id, q)) :
    pieceOf id s = some q := by
  unfold headOf at h
  split at h
  · nomatch h
  · next j hj =>
    obtain ⟨q', hq', heq⟩ := Option.map_eq_some_iff.mp h
    obtain ⟨rfl, rfl⟩ := Prod.mk.inj heq
    exact hq'

theorem serveHead_served (s : State) (p : PortId) : Served s (serveHead s p) := by
  by_cases h : (portOf p s).state = .ready ∧ (portOf p s).outstanding = none ∧ (portOf p s).offlinePending = .no
  · obtain ⟨hr, ho, hp⟩ := h
    cases hh : headOf p s with
    | none => rw [serveHead_noHead hh]; exact .refl s
    | some x =>
      obtain ⟨id, q⟩ := x
      cases hc : headCommand q with
      | none => rw [serveHead_waits hh hc]; exact .refl s
      | some y =>
        obtain ⟨op, dest, q'⟩ := y
        rw [serveHead_sends hr ho hp hh hc]
        exact headSent_served hr ho hp (headOf_piece hh) (headCommand_body hc)
  · rw [serveHead_notReady h]
    exact .refl s

theorem serveHeads_served (s : State) : Served s (serveHeads s) := by
  have hfold : ∀ (l : List PortId) (s : State), Served s (l.foldl serveHead s) := by
    intro l
    induction l with
    | nil => exact .refl
    | cons p l ih => exact fun s => (serveHead_served s p).trans (ih _)
  exact hfold _ s

/-- R101: the blocking set is refreshed in MVE alone. -/
theorem refreshBlocking_eq (s : State) : refreshBlocking s =
    s.setMve (s.mve.map fun m => { m with blocking := m.blocking.filter fun t => holdsChunk m t s }) := by
  unfold refreshBlocking
  cases h : s.mve with
  | none => exact congrArg (fun m => s.setMve m) h
  | some m => rfl

/-- Settles O56: the blocking set, then the heads port by port. -/
theorem finishFootprint : Obligations.FinishFootprint := by
  intro s t
  have h : Served (refreshBlocking s) t := serveHeads_served _
  rw [refreshBlocking_eq] at h
  refine ⟨h.pending, h.pins, h.ulc, h.rqt, h.xmp, h.spa, h.mgu, h.mst, h.svm, h.draws, h.sent, h.media, h.queues,
    h.waiting, h.pieces, h.ports, fun hm => ?_, fun m hm =>
    ⟨{ m with blocking := m.blocking.filter fun t => holdsChunk m t s }, ?_, rfl, fun t' => ?_⟩⟩
  · rw [h.mve, State.setMve_mve, hm, Option.map_none]
  · rw [h.mve, State.setMve_mve, hm, Option.map_some]
  · simp only [List.mem_filter, holdsChunk_iff]

end Sys2Proof.Machine
end

section
/-! SUPPORT. The steps that the part takes by itself: the chunk, its CP piece, and the slot arbiter (R60 to R63, R100 to
R102). -/

namespace Sys2Proof.Machine

/-! ### A step of the part as a command -/

theorem exec_blockingSetEmpties (s : State) : exec .blockingSetEmpties s = .next (ownStep blockingStep s) := rfl
theorem exec_cpPieceCut (s : State) : exec .cpPieceCut s = .next (ownStep cpCutStep s) := rfl
theorem exec_slotGrant (s : State) : exec .slotGrant s = .next (ownStep slotGrantStep s) := rfl

theorem lowestFree_none {s : State} (h : ∀ id, pieceOf id s ≠ none) : lowestFree s = none := by
  simpa [lowestFree, allPieces] using h

/-! ### The chunk (R100 to R102) -/

theorem blockingStep_none {s : State}
    (h : ∀ m n, s.mve = some m → m.chunk = some ⟨n, .held⟩ → m.blocking ≠ []) : blockingStep s = none := by
  unfold blockingStep
  split
  · rfl
  · next m hm =>
    split
    · next n hc => exact if_neg (h m n hm hc)
    · rfl

theorem blockingStep_some {s : State} {m : Move} {n : Nat} (hm : s.mve = some m) (hc : m.chunk = some ⟨n, .held⟩)
    (hb : m.blocking = []) : blockingStep s = some (s.setMve (some { m with chunk := some ⟨n, .claim⟩ })) := by
  simp only [blockingStep, hm, hc, hb, if_true]

theorem cpCutStep_none {s : State}
    (h : s.rqt.flushing ≠ [] ∨ lowestFree s = none ∨ ∀ m n, s.mve = some m → m.chunk ≠ some ⟨n, .claim⟩) :
    cpCutStep s = none := by
  unfold cpCutStep
  split
  · rfl
  · next hf =>
    split
    · next m id hm hid =>
      split
      · next n hc =>
        obtain h | h | h := h
        · exact absurd h hf
        · exact absurd (hid.symm.trans h) nofun
        · exact absurd hc (h m n hm)
      · rfl
    · rfl

/-- R57: a piece cut on a port in service joins its queue. -/
theorem placePiece_joins {p : PortId} {s : State} (h : inService p s) (id : PieceId) :
    placePiece id p s = joinQueue p id s := by
  simp only [placePiece, outOfService_inService h]

/-- R57: a piece cut on a port out of service fails at its cut. -/
theorem placePiece_fails {p : PortId} {s : State} (h : ¬inService p s) (id : PieceId) :
    placePiece id p s = sourceFails id 0 (serviceCause p s) s := by
  simp only [placePiece, outOfService_cause h]

/-- R102: MVE cuts the CP piece of its chunk. -/
theorem cpCutStep_some {s : State} {m : Move} {n : Nat} {id : PieceId} (hf : s.rqt.flushing = []) (hm : s.mve = some m)
    (hc : m.chunk = some ⟨n, .claim⟩) (hid : LowestFree id s) (hp : inService m.srcPort s) :
    cpCutStep s = some (joinQueue m.srcPort id (setPiece id (some (cpPiece m n)) (s.setMve (some {
      m with chunk := some ⟨n, .cut⟩, piece := some id, shadows := joinSet id m.shadows })))) := by
  simp only [cpCutStep, hf, ne_eq, not_true_eq_false, if_false, hm, lowestFree_of hid, hc]
  rw [placePiece_joins (by exact hp)]

/-- Settles O53. -/
theorem chunkSteps : Obligations.ChunkSteps := by
  intro s hr
  simp only [exec_blockingSetEmpties, exec_cpPieceCut]
  refine ⟨fun hcut => ?cut, fun m n hm hc => ?held, fun m n hm hc => ?claim⟩
  case cut =>
    have hphase : ∀ m n ph, s.mve = some m → m.chunk = some ⟨n, ph⟩ → ph = .cut := fun m n ph hm hc => hcut m _ hm hc
    rw [ownStep_none hr (blockingStep_none fun m n hm hc => nomatch hphase m n _ hm hc),
      ownStep_none hr (cpCutStep_none (.inr (.inr fun m n hm hc => nomatch hphase m n _ hm hc)))]
    exact ⟨rfl, rfl⟩
  case held =>
    have honly : ∀ m' n', s.mve = some m' → m'.chunk ≠ some ⟨n', .claim⟩ := by
      rintro m' n' hm' hc'
      obtain rfl := Option.some.inj (hm.symm.trans hm')
      exact absurd (hc.symm.trans hc') nofun
    rw [ownStep_none hr (cpCutStep_none (.inr (.inr honly)))]
    refine ⟨rfl, fun hb => ?_, fun hb => ?_⟩
    · rw [ownStep_none hr (blockingStep_none ?_)]
      intro m' n' hm' _
      obtain rfl := Option.some.inj (hm.symm.trans hm')
      exact hb
    · rw [ownStep_some hr (blockingStep_some hm hc hb)]
  case claim =>
    refine ⟨?_, fun h => ?_, fun id hf hid hp => ?_⟩
    · rw [ownStep_none hr (blockingStep_none ?_)]
      rintro m' n' hm' hc'
      obtain rfl := Option.some.inj (hm.symm.trans hm')
      exact absurd (hc.symm.trans hc') nofun
    · rw [ownStep_none hr (cpCutStep_none (h.imp_right fun h => .inl (lowestFree_none h)))]
    · rw [ownStep_some hr (cpCutStep_some hf hm hc hid hp)]
      rfl

/-! ### The slot arbiter (R60 to R63) -/

theorem fits_eq (s : State) (p : PortId) :
    fits s p = ((claimOf p s).filter fun n => n ≤ s.spa.free.length).map fun n => (p, n) := by
  unfold fits
  cases claimOf p s with
  | none => rfl
  | some n => by_cases h : n ≤ s.spa.free.length <;> simp [h, Option.filter]

theorem fits_none {s : State} {p : PortId} (h : ∀ n, claimOf p s = some n → s.spa.free.length < n) : fits s p = none := by
  simpa [fits_eq] using h

theorem fits_some {s : State} {p : PortId} {n : Nat} (hc : claimOf p s = some n) (hn : n ≤ s.spa.free.length) :
    fits s p = some (p, n) := by
  simp [fits_eq, hc, hn]

theorem chosenClaim_held {s : State} {p : PortId} {rest : List PortId} (h : s.spa.reserve = p :: rest) :
    chosenClaim s = fits s p := by
  simp only [chosenClaim, h]

theorem chosenClaim_free {s : State} (h : s.spa.reserve = []) :
    chosenClaim s = (rotation s.spa.pointer).findSome? (fits s) := by
  simp only [chosenClaim, h]

theorem slotGrantStep_none {s : State} (h : chosenClaim s = none) : slotGrantStep s = none := by
  simp only [slotGrantStep, h]

theorem slotGrantStep_some {s : State} {p : PortId} {n : Nat} {id : PieceId} {q : Piece}
    (h : chosenClaim s = some (p, n)) (hh : headOf p s = some (id, q)) :
    slotGrantStep s = some (grantHead id q (s.spa.free.take n) (s.setSpa (spaAfterGrant p n s))) := by
  simp only [slotGrantStep, h, hh]

/-- A fold that changes some cells of a vector, each by its own value. -/
theorem foldl_set_get {α : Type} (c : PortId → Bool) (f : α → α) (l : List PortId) (hl : l.Nodup) (v : Vector α 4)
    (p : PortId) :
    (l.foldl (fun (v : Vector α 4) q => if c q then v.set q (f v[q]) else v) v)[p] =
      if p ∈ l ∧ c p then f v[p] else v[p] := by
  induction l generalizing v with
  | nil => simp
  | cons q l ih =>
    obtain ⟨hq, hl⟩ := List.nodup_cons.mp hl
    rw [List.foldl_cons, ih hl]
    by_cases hp : p = q
    · subst hp
      by_cases hc : c p <;> simp [hq, hc]
    · have hne : q.val ≠ p.val := fun e => hp (Fin.ext e.symm)
      by_cases hc : c q <;> simp [hp, hc, Vector.getElem_set_ne, hne]

theorem nodup_allPorts : allPorts.Nodup := by decide

theorem mem_allPorts (p : PortId) : p ∈ allPorts := List.mem_finRange p

/-- R61: the pass-over counts after a grant. -/
theorem passOver_afterGrant (p : PortId) (n : Nat) (s : State) (p' : PortId) :
    (spaAfterGrant p n s).passOver[p'] =
      if passedOver p (s.spa.free.length - n) s p' then min Config.passOverLimit ((s.spa.passOver.set p 0)[p'] + 1)
      else (s.spa.passOver.set p 0)[p'] := by
  have hfold := foldl_set_get (passedOver p (s.spa.free.drop n).length s) (fun x => min Config.passOverLimit (x + 1))
    allPorts nodup_allPorts (s.spa.passOver.set p 0) p'
  rw [List.length_drop] at hfold
  simp only [mem_allPorts, true_and] at hfold
  simpa only [spaAfterGrant, List.length_drop] using hfold

theorem passedOver_iff {p p' : PortId} {left : Nat} {s : State} : passedOver p left s p' = true ↔
    p' ≠ p ∧ (claimOf p' s).any (left < ·) = true := by
  simp [passedOver]

/-- R62: the reserve order after a grant. -/
theorem reserve_afterGrant (p : PortId) (n : Nat) (s : State) :
    (spaAfterGrant p n s).reserve = s.spa.reserve.filter (· ≠ p) ++ (rotation p).filter fun p' =>
      decide (passedOver p (s.spa.free.length - n) s p' = true ∧ (spaAfterGrant p n s).passOver[p'] = 4 ∧
        p' ∉ s.spa.reserve) := by
  have hnewly : ∀ p', (decide ((spaAfterGrant p n s).passOver[p'] = Config.passOverLimit ∧
      passedOver p (s.spa.free.drop n).length s p' = true ∧ p' ∉ s.spa.reserve.filter (· ≠ p))) =
      decide (passedOver p (s.spa.free.length - n) s p' = true ∧ (spaAfterGrant p n s).passOver[p'] = 4 ∧
        p' ∉ s.spa.reserve) := by
    intro p'
    rw [List.length_drop, decide_eq_decide]
    constructor
    · rintro ⟨hcount, hpassed, hheld⟩
      have hne := (passedOver_iff.mp hpassed).1
      exact ⟨hpassed, hcount, fun h => hheld (List.mem_filter.mpr ⟨h, decide_eq_true hne⟩)⟩
    · rintro ⟨hpassed, hcount, hheld⟩
      exact ⟨hcount, hpassed, fun h => hheld (List.mem_filter.mp h).1⟩
  exact congrArg _ (List.filter_congr fun p' _ => hnewly p')

/-- R63: the granted head of a WRITE. -/
theorem grantHead_write {id : PieceId} {q : Piece} {t : Tag} (hk : q.kind = .wr) (ho : q.owner = .tag t)
    (slots : List SlotId) (s : State) : grantHead id q slots s =
      openGrant ⟨t, q.offset, q.count, .piece id⟩
        (setPiece id (some { q with slots := slots, state := .filling, filled := [] }) s) := by
  simp only [grantHead, hk, ho]

theorem grantHead_other {id : PieceId} {q : Piece} (h : ∀ t, q.kind = .wr → q.owner ≠ .tag t)
    (slots : List SlotId) (s : State) : grantHead id q slots s = setPiece id (some { q with slots := slots }) s := by
  unfold grantHead
  split
  · next t hk ho => exact absurd ho (h t hk)
  · rfl

/-- R63: a granted head touches its own record, and the grants. -/
theorem grantHead_eq (id : PieceId) (q : Piece) (slots : List SlotId) (s : State) :
    ∃ u r, grantHead id q slots s = (setPiece id (some r) s).setUlc u := by
  unfold grantHead
  split
  · exact ⟨_, _, rfl⟩
  · exact ⟨s.ulc, _, rfl⟩

/-- Settles O52. -/
theorem slotsGranted : Obligations.SlotsGranted := by
  intro s hr room tooBig
  rw [exec_slotGrant]
  refine ⟨fun h => ?none, fun p n id q hc hn hh hturn => ?granted⟩
  case none =>
    rw [ownStep_none hr (slotGrantStep_none ?_)]
    obtain ⟨h, rest, hres, hbig⟩ | ⟨hres, hbig⟩ := h
    · rw [chosenClaim_held hres, fits_none hbig]
    · rw [chosenClaim_free hres, List.findSome?_eq_none_iff]
      exact fun p _ => fits_none (hbig p)
  case granted =>
    intro passed
    have hchosen : chosenClaim s = some (p, n) := by
      obtain ⟨rest, hres⟩ | ⟨hres, before, after, hrot, hbig⟩ := hturn
      · rw [chosenClaim_held hres, fits_some hc hn]
      · rw [chosenClaim_free hres, hrot, List.findSome?_append,
          List.findSome?_eq_none_iff.mpr fun p' hp' => fits_none (hbig p' hp'), Option.none_or, List.findSome?_cons,
          fits_some hc hn]
    have hpassed : ∀ p', passed p' ↔ passedOver p (s.spa.free.length - n) s p' = true := fun p' => passedOver_iff.symm
    obtain ⟨x, r, hgrant⟩ := grantHead_eq id q (s.spa.free.take n) (s.setSpa (spaAfterGrant p n s))
    refine ⟨_, congrArg _ (ownStep_some hr (slotGrantStep_some hchosen hh)), ?_⟩
    have hspa : (grantHead id q (s.spa.free.take n) (s.setSpa (spaAfterGrant p n s))).spa = spaAfterGrant p n s := by
      rw [hgrant]; rfl
    rw [hspa]
    refine ⟨rfl, rfl, ?_, fun p' hp' => ?_, fun p' hne hp' => ?_, ?_, rfl, by rw [hgrant]; rfl, by rw [hgrant]; rfl,
      by rw [hgrant]; rfl, by rw [hgrant]; exact ⟨rfl, rfl, rfl, rfl⟩, fun id' hid' => ?_, fun hk => ?_,
      fun t hk ho => ?_⟩
    · have hself : ¬passedOver p (s.spa.free.length - n) s p = true := fun h => (passedOver_iff.mp h).1 rfl
      rw [passOver_afterGrant, if_neg hself]
      exact Vector.getElem_set_self ..
    · have hne := hp'.1
      rw [passOver_afterGrant, if_pos ((hpassed p').mp hp')]
      exact congrArg (fun x => min 4 (x + 1)) (Vector.getElem_set_ne p.isLt p'.isLt fun e => hne (Fin.ext e.symm))
    · rw [passOver_afterGrant, if_neg (mt (hpassed p').mpr hp')]
      exact Vector.getElem_set_ne p.isLt p'.isLt fun e => hne (Fin.ext e.symm)
    · rw [reserve_afterGrant]
      simp only [hpassed]
    · rw [hgrant]
      exact pieceOf_setPiece_ne hid' _ _
    · rw [grantHead_other fun t h => absurd h hk]
      exact ⟨rfl, pieceOf_setPiece_self ..⟩
    · rw [grantHead_write hk ho]
      exact ⟨pieceOf_setPiece_self id _ (s.setSpa (spaAfterGrant p n s)), rfl⟩

end Sys2Proof.Machine
end

section
/-! SUPPORT. The start-ups, the stop of the part, and the frames that leave (R137, R139, R142, R176). -/

namespace Sys2Proof.Machine

/-! ### Start-up (R95, R139) -/

/-- R95: the wake-up of ports, one field at a time. -/
theorem foldl_wakePort (l : List PortId) (v : State) : l.foldl wakePort v =
    (v.setPorts (l.foldl (fun (x : Vector Port 4) p => if v.pins.presentLow[p] then x.set p (probing .probing x[p])
      else x) v.ports)).setOut
      { v.out with media := v.out.media ++ (l.filter fun p => v.pins.presentLow[p]).flatMap probeFrames } := by
  induction l generalizing v with
  | nil => simp [State.setPorts, State.setOut]
  | cons p l ih =>
    rw [List.foldl_cons, ih, wakePort]
    by_cases h : v.pins.presentLow[p] = true
    · rw [if_pos h, startProbe_eq]
      simp only [State.setOut_pins, State.setPorts_pins, State.setOut_ports, State.setPorts_ports, State.setOut_out,
        List.foldl_cons, h, if_true, List.filter_cons_of_pos, List.flatMap_cons, List.append_assoc]
      rfl
    · simp only [h, Bool.false_eq_true, if_false, List.foldl_cons, not_false_eq_true, List.filter_cons_of_neg]

theorem startUp_eq (cause : StartCause) (s : State) : startUp cause s =
    ((startValues cause s).setPorts (startUp cause s).ports).setOut { s.out with
      media := s.out.media ++ (allPorts.filter fun p => s.pins.presentLow[p]).flatMap probeFrames } := by
  have h := foldl_wakePort allPorts (startValues cause s)
  rw [show (startUp cause s).ports = _ from congrArg State.ports h]
  exact h

theorem startUp_port (cause : StartCause) (s : State) (p : PortId) :
    portOf p (startUp cause s) = portAtStart s.pins.presentLow[p] := by
  have h := congrArg State.ports (foldl_wakePort allPorts (startValues cause s))
  have hcell := foldl_set_get (fun q => s.pins.presentLow[q]) (probing .probing) allPorts nodup_allPorts
    (Vector.replicate 4 Port.reset) p
  have hport : portOf p (startUp cause s) = _ := (congrArg (fun v : Vector Port 4 => v[p]) h).trans hcell
  rw [hport]
  simp only [mem_allPorts, true_and, portAtStart, Fin.getElem_fin, Vector.getElem_replicate]

theorem startUp_fresh (cause : StartCause) (s : State) : Fresh cause (startUp cause s) := by
  have hports := startUp_port cause s
  rw [startUp_eq] at hports ⊢
  refine ⟨fun t => ?_, rfl, rfl, rfl, rfl, rfl, ?_, rfl, rfl, fun t => ?_, fun i => ⟨?_, ?_⟩, rfl, rfl, fun id => ?_,
    fun p => ?_, rfl, rfl, rfl, fun p => ?_, rfl, hports, rfl, rfl, rfl, fun i => ?_, rfl, rfl, rfl, rfl, rfl, rfl,
    rfl, rfl, rfl, rfl, rfl, rfl, rfl⟩
  all_goals simp [startValues, entryOf, pieceOf, queueOf, ExtMap.empty, freeSegments, Config.segmentRecords]

theorem startUp_keeps (cause : StartCause) (s : State) : StartKeeps s (startUp cause s) := by
  rw [startUp_eq]
  exact ⟨rfl, rfl, rfl, rfl, rfl, rfl, rfl, rfl, rfl⟩

theorem startUp_pins (cause : StartCause) (s : State) :
    (startUp cause s).pins = { s.pins with started := true } := by
  rw [startUp_eq]
  rfl

theorem exec_restartCmplDeparts {s u : State} (hs : StandsAt s u) :
    exec .restartCmplDeparts s = .next (finish (restartLeaves u)) :=
  congrArg Host.Outcome.next (event_at hs restartLeaves)

theorem frameLeaves_eq {f : TxFrame} {rest : List TxFrame} {u : State} (h : u.ulc.tx = f :: rest) (g : HostFrame) :
    frameLeaves g u = (u.setUlc { u.ulc with tx := rest }).setOut { u.out with sent := u.out.sent ++ [g] } := by
  simp only [frameLeaves, h, List.tail_cons]

/-- R139: a start-up keeps the same of a part with other levels of RESETn and power. -/
theorem StartKeeps.of_levels {v t : State} (powered reset started : Bool)
    (h : StartKeeps (v.setPins { v.pins with powered := powered, resetLow := reset, started := started }) t) :
    StartKeeps v t := h

/-- Settles O34: each start-up is `startUp` of its cause. -/
theorem startUps : Obligations.StartUps := by
  refine fun s => ⟨fun hreset hpower => ?pin, fun hpower hreset hstarted => ?power, fun hpower hreset => ?waits,
    fun u c rest hs htx => ?restart⟩
  case pin =>
    let cause := if s.pins.started then StartCause.pin else .power
    refine ⟨startUp cause (setReset false s), ?_, startUp_fresh cause (setReset false s),
      .of_levels s.pins.powered false s.pins.started (startUp_keeps cause (setReset false s)), ?_, ?_⟩
    · show Host.Outcome.next (releaseReset s) = _
      simp only [releaseReset, hreset, hpower, and_self, if_true]
      rfl
    · rw [startUp_pins]; rfl
    · rw [startUp_pins]; exact hpower
  case power =>
    refine ⟨startUp .power (setPower true s), ?_, startUp_fresh .power (setPower true s),
      .of_levels true s.pins.resetLow s.pins.started (startUp_keeps .power (setPower true s)), ?_, ?_⟩
    · show Host.Outcome.next (applyPower s) = _
      simp [applyPower, hpower, setPower, hreset, startUpByLines, hstarted]
    · rw [startUp_pins]; exact hreset
    · rw [startUp_pins]; rfl
  case waits =>
    show Host.Outcome.next (applyPower s) = _
    simp [applyPower, hpower, setPower, hreset]
  case restart =>
    have hleft := frameLeaves_eq htx (.cmpl c)
    refine ⟨startUp .restart (frameLeaves (.cmpl c) u), ?_, startUp_fresh .restart (frameLeaves (.cmpl c) u), ?_⟩
    · rw [exec_restartCmplDeparts hs]
      simp only [restartLeaves, htx]
    · have hkeeps := startUp_keeps .restart (frameLeaves (.cmpl c) u)
      rw [hleft] at hkeeps ⊢
      exact hkeeps

/-! ### The stop of the part (R137) -/

theorem halfAt_append_pair (l : List Byte) (a b : Byte) :
    (halfAt (l ++ [a, b]) l.length).toNat = a.toNat + 256 * b.toNat := by
  have ha := a.isLt
  have hb := b.isLt
  simp only [halfAt, List.drop_left, List.take_succ_cons, List.take_nil, leNat, BitVec.toNat_ofNat, Nat.mul_zero,
    Nat.add_zero]
  omega

theorem pair_of_length {α : Type} {l : List α} (h : l.length = 2) : ∃ a b, l = [a, b] :=
  match l, h with
  | [a, b], _ => ⟨a, b, rfl⟩

/-- R173: a check word with one bit of its last byte changed is bad. -/
theorem checkGood_flip {n : Nat} {bs : List Byte} (h : checkGood n bs = true) (hn : bs.length = n + 2) :
    checkGood n (bs.set (n + 1) (byteAt bs (n + 1) ^^^ 1)) = false := by
  obtain ⟨a, b, hab⟩ : ∃ a b, bs.drop n = [a, b] := pair_of_length (by rw [List.length_drop, hn]; omega)
  have hbs : bs = bs.take n ++ [a, b] := by rw [← hab, List.take_append_drop]
  generalize hl : bs.take n = l at hbs
  have hlen : l.length = n := by rw [← hl, List.length_take, hn]; omega
  subst hbs
  subst hlen
  have hlast : byteAt (l ++ [a, b]) (l.length + 1) = b := by simp [byteAt]
  have hset : (l ++ [a, b]).set (l.length + 1) (b ^^^ 1) = l ++ [a, b ^^^ 1] := by
    simp
  rw [checkGood_iff, halfAt_append_pair, List.take_left] at h
  rw [hlast, hset, Bool.eq_false_iff, ne_eq, checkGood_iff, halfAt_append_pair, List.take_left, ← h]
  intro heq
  have hsame : b ^^^ 1 = b := BitVec.eq_of_toNat_eq (by omega)
  revert hsame
  generalize b = x
  revert x
  decide

theorem toList_set_flip {n : Nat} (x : Vector Byte n) (i : Nat) (h : i < n) :
    (x.set i (x[i] ^^^ 1)).toList = x.toList.set i (byteAt x.toList i ^^^ 1) := by
  simp [byteAt, Vector.toList, h]

/-- R132, R137: the bound on what a header write leaves. -/
theorem unknownHeader_left (old new : Vector Byte 10) (n : Nat) :
    LeftUnknown headerGood old new (unknownHeader old new n) := by
  unfold unknownHeader LeftUnknown
  generalize Config.freeHeader n = x
  dsimp only
  split
  · assumption
  · next h =>
    have hgood : headerGood x = true := by simpa using fun hf => h (.inr (.inr hf))
    exact .inr (.inr (by rw [headerGood, toList_set_flip, checkGood_flip hgood (by simp)]))

/-- R137: the bound on what a row write that was cut off leaves. -/
theorem unknownRow_left (old new : Vector Byte 130) (n : Nat) :
    LeftUnknown rowGood old new (unknownRow old new n) := by
  unfold unknownRow LeftUnknown
  generalize Config.freeRow n = x
  dsimp only
  split
  · assumption
  · next h =>
    have hgood : rowGood x = true := by simpa using fun hf => h (.inr (.inr hf))
    exact .inr (.inr (by rw [rowGood, toList_set_flip, checkGood_flip hgood (by simp)]))

/-- R137: what a cut-off write leaves of the store image. -/
def CutOff (op : StoreOp) (m m' : Mst) : Prop :=
  match op with
  | .idle => m'.header = m.header ∧ m'.rows = m.rows
  | .saving .opening _ _ | .wiping _ => LeftUnknown headerGood m.header invalidHeader m'.header ∧ m'.rows = m.rows
  | .saving (.row n) img _ => m'.header = m.header ∧ LeftUnknown rowGood m.rows[n] (imageRow img n) m'.rows[n] ∧
    ∀ k : Fin 8, k ≠ n → m'.rows[k] = m.rows[k]
  | .saving .closing img _ => LeftUnknown headerGood m.header (imageHeader img) m'.header ∧ m'.rows = m.rows

theorem rows_set_ne {rows : Vector (Vector Byte 130) 8} {n k : Fin 8} (h : k ≠ n) (x : Vector Byte 130) :
    (rows.set n x)[k] = rows[k] :=
  Vector.getElem_set_ne n.isLt k.isLt fun e => h (Fin.ext e.symm)

theorem cutOffStore_cutOff (s : State) : CutOff s.mst.op s.mst (cutOffStore s).mst := by
  unfold cutOffStore spoilStore
  cases s.mst.op with
  | idle => exact ⟨rfl, rfl⟩
  | wiping t => exact ⟨unknownHeader_left .., rfl⟩
  | saving step img t =>
    cases step with
    | opening => exact ⟨unknownHeader_left .., rfl⟩
    | closing => exact ⟨unknownHeader_left .., rfl⟩
    | row n =>
      refine ⟨rfl, ?_, fun k hk => rows_set_ne hk _⟩
      have hself : (s.mst.rows.set n (unknownRow s.mst.rows[n] (imageRow img n) s.draws))[n] =
          unknownRow s.mst.rows[n] (imageRow img n) s.draws := Vector.getElem_set_self ..
      show LeftUnknown rowGood _ _ (s.mst.rows.set n (unknownRow s.mst.rows[n] (imageRow img n) s.draws))[n]
      rw [hself]
      exact unknownRow_left ..

/-- R137, R140: the stop touches the store and the count of free values. -/
theorem cutOffStore_eq (s : State) : ∃ (m : Mst) (d : Nat),
    cutOffStore s = (s.setMst { m with op := .idle, reading := false }).setDraws d := by
  unfold cutOffStore spoilStore
  cases s.mst.op with
  | idle => exact ⟨s.mst, s.draws, rfl⟩
  | wiping t => exact ⟨_, _, rfl⟩
  | saving step img t => exact ⟨_, _, rfl⟩

/-- Settles O35. -/
theorem partStops : Obligations.PartStops := by
  intro s u c pins hs hcase
  have hstop : stopPart s = cutOffStore u := by rw [stopPart, if_pos hs.1, hs.2]
  obtain ⟨m, d, hcut⟩ := cutOffStore_eq u
  have hleft := cutOffStore_cutOff u
  have hexec : exec c s = .next ((cutOffStore u).setPins pins) := by
    obtain ⟨rfl, rfl⟩ | ⟨rfl, rfl⟩ := hcase
    · show Host.Outcome.next (setReset true (stopPart s)) = _
      rw [hstop, hcut]
      rfl
    · show Host.Outcome.next (setPower false (stopPart s)) = _
      rw [hstop, hcut]
      rfl
  have hrunning : running ((cutOffStore u).setPins pins) = false := by
    obtain ⟨rfl, rfl⟩ | ⟨rfl, rfl⟩ := hcase <;> simp [running]
  refine ⟨_, hexec, hrunning, rfl, ?_⟩
  refine ⟨by rw [hcut]; rfl, by rw [hcut]; rfl, by rw [hcut]; rfl, by rw [hcut]; rfl, ?_⟩
  revert hleft
  generalize u.mst.op = op
  cases op with
  | idle => exact id
  | wiping t => exact id
  | saving step img t => cases step <;> exact id

end Sys2Proof.Machine
end

section
/-! SUPPORT. The frames that leave, the blocks of a read at media, and the ends of a store write (R76, R129 to R136,
R163, R176). -/

namespace Sys2Proof.Machine

/-! ### Departures (R126, R161, R163, R176) -/

theorem exec_frameDeparture {s u : State} (hs : StandsAt s u) :
    exec .frameDeparture s = .next (finish (otherFrameLeaves u)) :=
  congrArg Host.Outcome.next (event_at hs otherFrameLeaves)

theorem exec_readDataDeparts {s u : State} (hs : StandsAt s u) :
    exec .readDataDeparts s = .next (finish (readDataLeaves u)) :=
  congrArg Host.Outcome.next (event_at hs readDataLeaves)

theorem exec_mgmtDataDeparts {s u : State} (hs : StandsAt s u) :
    exec .mgmtDataDeparts s = .next (finish (managementDataLeaves u)) :=
  congrArg Host.Outcome.next (event_at hs managementDataLeaves)

/-- R176: the front of the transmit list has left as the frame `g`. -/
def frontLeft (rest : List TxFrame) (g : HostFrame) (u : State) : State :=
  (u.setUlc { u.ulc with tx := rest }).setOut { u.out with sent := u.out.sent ++ [g] }

theorem frameLeaves_front {f : TxFrame} {rest : List TxFrame} {u : State} (h : u.ulc.tx = f :: rest) (g : HostFrame) :
    frameLeaves g u = frontLeft rest g u := frameLeaves_eq h g

theorem readDataLeaves_other {u : State} (h : ∀ id t n b rest, u.ulc.tx ≠ .readData id t n b :: rest) :
    readDataLeaves u = u := by
  unfold readDataLeaves
  split
  · next id t n b rest htx => exact absurd htx (h id t n b rest)
  · rfl

theorem restartLeaves_other {u : State} (h : ∀ c rest, u.ulc.tx ≠ .cmpl c true :: rest) : restartLeaves u = u := by
  unfold restartLeaves
  split
  · next c rest htx => exact absurd htx (h c rest)
  · rfl

theorem managementDataLeaves_other {u : State} (h : ∀ t n b rest, u.ulc.tx ≠ .mgmtData t n b :: rest)
    (h' : ∀ t rest, u.ulc.tx ≠ .statusData t :: rest) : managementDataLeaves u = u := by
  unfold managementDataLeaves
  split
  · next t n b rest htx => exact absurd htx (h t n b rest)
  · next t rest htx => exact absurd htx (h' t rest)
  · rfl

theorem any_isMgmtData (l : List TxFrame) : l.any isMgmtData = true ↔ ∃ t n b, .mgmtData t n b ∈ l := by
  rw [List.any_eq_true]
  constructor
  · rintro ⟨f, hf, hdata⟩
    unfold isMgmtData at hdata
    split at hdata
    · exact ⟨_, _, _, hf⟩
    · nomatch hdata
  · rintro ⟨t, n, b, hf⟩
    exact ⟨_, hf, rfl⟩

/-- R126: the end of a management request with data. -/
theorem managementDataEnds_eq {t : Tag} {e : Entry} {v : State} (h : entryOf t v = some e) :
    managementDataEnds t v = complete t .good .none 0 (if e.kind = .mapRead then e.p2.toNat else 0) (mguIdle v) := by
  simp only [managementDataEnds, h, Option.map_some, Option.getD_some]

theorem mguIdle_mgu (v : State) :
    (mguIdle v).mgu = { v.mgu with exec := .idle, executing := none, buffer := #v[none, none] } := rfl

/-- R126: a management request with data is answered, and MGU is free. -/
theorem managementDataEnds_answers {t : Tag} {e : Entry} {v : State} (h : entryOf t v = some e) :
    Answers t .good .none 0 (if e.kind = .mapRead then e.p2.toNat else 0) v (managementDataEnds t v) ∧
      SameMedia v (managementDataEnds t v) ∧ (managementDataEnds t v).mgu = (mguIdle v).mgu ∧
      (managementDataEnds t v).xmp = v.xmp ∧ (managementDataEnds t v).mst = v.mst ∧
      (managementDataEnds t v).svm = v.svm := by
  rw [managementDataEnds_eq h]
  refine ⟨(complete_answers t .good .none 0 _ (mguIdle v)).of_view rfl rfl rfl,
    .complete (v := mguIdle v) ⟨rfl, rfl, rfl, rfl, rfl, rfl, rfl⟩ t .good .none 0 _, ?_, ?_, ?_, ?_⟩
  all_goals simp only [complete_mgu, complete_xmp, complete_mst, complete_svm]
  all_goals rfl

theorem attention_cleared {w : State} (h1 : w.mgu.flags = noFlags) (h2 : w.svm.lapse = false) : attention w = false := by
  rw [attention, h1, h2]
  rfl

/-- Settles O33: the front of the list decides which departure acts. -/
theorem framesDepart : Obligations.FramesDepart := by
  intro s u hs
  refine ⟨fun c hc htx => ?empty, fun f rest htx => ?front⟩
  case empty =>
    have hother : otherFrameLeaves u = u := by simp only [otherFrameLeaves, htx]
    simp only [List.mem_cons, List.not_mem_nil, or_false] at hc
    obtain rfl | rfl | rfl | rfl := hc
    · rw [exec_frameDeparture hs, hother]
    · rw [exec_readDataDeparts hs, readDataLeaves_other (by simp [htx])]
    · rw [exec_mgmtDataDeparts hs, managementDataLeaves_other (by simp [htx]) (by simp [htx])]
    · rw [exec_restartCmplDeparts hs, restartLeaves_other (by simp [htx])]
  case front =>
    intro left
    have hleft : ∀ g, frameLeaves g u = left g := frameLeaves_front htx
    refine ⟨fun h hf => ?other, fun hf => ?otherNot, fun hf => ?readNot, fun hf hf' => ?mgmtNot, fun hf => ?restartNot,
      fun t n b hf => ⟨fun hmore => ?more, fun e hlast he => ?last⟩, fun t e hf he hk => ?status⟩
    case other =>
      rw [exec_frameDeparture hs, ← hleft]
      obtain ⟨c, ⟨rfl, rfl⟩ | ⟨t, a, n, ⟨rfl, rfl⟩ | ⟨t, b, rfl, rfl⟩⟩⟩ := hf <;> simp only [otherFrameLeaves, htx]
    case otherNot =>
      rw [exec_frameDeparture hs]
      obtain ⟨c, rfl⟩ | ⟨id, t, n, b, rfl⟩ | ⟨t, n, b, rfl⟩ | ⟨t, rfl⟩ := hf <;> simp only [otherFrameLeaves, htx]
    case readNot =>
      rw [exec_readDataDeparts hs, readDataLeaves_other]
      exact fun id t n b r h => hf id t n b (List.cons.inj (htx.symm.trans h)).1
    case mgmtNot =>
      rw [exec_mgmtDataDeparts hs, managementDataLeaves_other]
      · exact fun t n b r h => hf t n b (List.cons.inj (htx.symm.trans h)).1
      · exact fun t r h => hf' t (List.cons.inj (htx.symm.trans h)).1
    case restartNot =>
      rw [exec_restartCmplDeparts hs, restartLeaves_other]
      exact fun c r h => hf c (List.cons.inj (htx.symm.trans h)).1
    case more =>
      subst hf
      rw [exec_mgmtDataDeparts hs]
      simp only [managementDataLeaves, htx, (any_isMgmtData rest).mpr hmore, if_true, hleft]
    case last =>
      subst hf
      have hnone : rest.any isMgmtData = false := by
        rw [Bool.eq_false_iff, ne_eq, any_isMgmtData]
        exact fun ⟨t', n', b', hmem⟩ => hlast t' n' b' hmem
      have hends : managementDataLeaves u = managementDataEnds t (left (.data t n b)) := by
        simp [managementDataLeaves, htx, hnone, hleft]
      rw [exec_mgmtDataDeparts hs, hends]
      obtain ⟨hanswer, hmedia, hg, hx, hm, hy⟩ := managementDataEnds_answers (v := left (.data t n b)) he
      exact ⟨_, rfl, hmedia, hanswer, hg, hx, hm, hy⟩
    case status =>
      subst hf
      intro v
      let v' := setLapse false (clearFlags v)
      have hends : managementDataLeaves u = managementDataEnds t v' := by
        simp only [managementDataLeaves, htx, statusLeaves, hleft]
        rfl
      rw [exec_mgmtDataDeparts hs, hends]
      obtain ⟨hanswer, hmedia, hg, hx, hm, hy⟩ := managementDataEnds_answers (v := v') (e := e) he
      rw [hk] at hanswer
      exact ⟨_, rfl, hmedia, hanswer.of_view rfl rfl rfl, attention_cleared (by rw [hg]; rfl) (by rw [hy]; rfl), hg, hx,
        hm, hy⟩

/-! ### DATA from a media unit (R76) -/

theorem exec_mediaData {s u : State} (hs : StandsAt s u) (p : PortId) (check : Bool) (i : Fin 8) (b : Block) :
    exec (.mediaData p check i b) s = .next (finish (ifChecked check (mediaBlock p i.val b) u)) :=
  congrArg Host.Outcome.next (event_at hs _)

theorem pieceAtMedia_eq_some {p : PortId} {s : State} {id : PieceId} {op : MediaOp} {dest : Bool} :
    pieceAtMedia p s = some (id, op, dest) ↔
      (portOf p s).state = .ready ∧ (portOf p s).outstanding = some (.piece id op dest) := by
  unfold pieceAtMedia
  split
  · next id' op' dest' hr ho => simp [hr, ho]
  · next h =>
    simp only [reduceCtorEq, false_iff, not_and]
    exact fun hr ho => h id op dest hr ho

theorem pieceAtMedia_eq_none {p : PortId} {s : State} (h : (portOf p s).state ≠ .ready ∨ (portOf p s).outstanding = none ∨
    (portOf p s).outstanding = some .inquiry) : pieceAtMedia p s = none := by
  rw [Option.eq_none_iff_forall_not_mem]
  rintro ⟨id, op, dest⟩ hmem
  obtain ⟨hr, ho⟩ := pieceAtMedia_eq_some.mp hmem
  obtain h | h | h := h
  · exact h hr
  · exact nomatch ho.symm.trans h
  · exact nomatch ho.symm.trans h

theorem joinSet_new {α : Type} [DecidableEq α] {x : α} {l : List α} (h : x ∉ l) : joinSet x l = l ++ [x] := if_neg h

/-- R76: a block of the outstanding read is written once. -/
theorem mediaBlock_writes {p : PortId} {i : Nat} {b : Block} {u : State} {id : PieceId} {dest : Bool} {q : Piece}
    {k : SlotId} (h : pieceAtMedia p u = some (id, .rd, dest)) (hq : pieceOf id u = some q) (hk : q.slots[i]? = some k)
    (hi : i ∉ (portOf p u).received) : mediaBlock p i b u =
      (u.setSpa { u.spa with slots := u.spa.slots.set k b }).setPorts (u.ports.set p
        { portOf p u with received := (portOf p u).received ++ [i] }) := by
  simp only [mediaBlock, h, hq, Option.bind_some, hk, hi, if_false, modPort, joinSet_new hi]
  rfl

/-- R76: any other block is discarded. -/
theorem mediaBlock_discards {p : PortId} {i : Nat} {b : Block} {u : State}
    (h : ∀ id dest q k, pieceAtMedia p u = some (id, .rd, dest) → pieceOf id u = some q → q.slots[i]? = some k →
      i ∈ (portOf p u).received) : mediaBlock p i b u = u := by
  unfold mediaBlock
  split
  · next id dest hp =>
    split
    · rfl
    · next k hk =>
      obtain ⟨q, hq, hk⟩ := Option.bind_eq_some_iff.mp hk
      rw [if_pos (h id dest q k hp hq hk)]
  · rfl

/-- Settles O41. -/
theorem mediaDataTaken : Obligations.MediaDataTaken := by
  intro s u p check i b hs x reading
  rw [exec_mediaData hs]
  refine ⟨fun id dest q k hcheck hr ho hq hk hi => ?writes, fun h => ?discards⟩
  case writes =>
    rw [ifChecked, if_pos hcheck, mediaBlock_writes (pieceAtMedia_eq_some.mpr ⟨hr, ho⟩) hq hk hi]
  case discards =>
    obtain rfl | h := h
    · rfl
    · have hkeeps : mediaBlock p i.val b u = u := by
        refine mediaBlock_discards fun id dest q k hp hq hk => h.resolve_left fun hno => hno ?_
        obtain ⟨hr, ho⟩ := pieceAtMedia_eq_some.mp hp
        exact ⟨id, dest, q, hr, ho, hq, (List.getElem?_eq_some_iff.mp hk).1⟩
      rw [ifChecked, hkeeps, ite_self]

/-! ### The ends of a store write (R129 to R136) -/

theorem exec_storeWriteEndGood {s u : State} (hs : StandsAt s u) :
    exec .storeWriteEndGood s = .next (finish (goodWriteEnd u)) :=
  congrArg Host.Outcome.next (event_at hs goodWriteEnd)

theorem exec_storeWriteEndBad {s u : State} (hs : StandsAt s u) :
    exec .storeWriteEndBad s = .next (finish (badWriteEnd u)) :=
  congrArg Host.Outcome.next (event_at hs badWriteEnd)

/-- R42, R136: the end of a store operation is answered under its tag, if it holds one. -/
def StoreAnswered (tag : Option Tag) (o : ReqOutcome) (c : Cause) (detail : Nat) (u w : State) : Prop :=
  match tag with
  | some t => Answers t o c 0 detail u w
  | none => w.ulc = u.ulc ∧ w.rqt = u.rqt ∧ w.mve = u.mve

theorem StoreAnswered.of_view {tag : Option Tag} {o : ReqOutcome} {c : Cause} {detail : Nat} {u v w : State}
    (h : StoreAnswered tag o c detail v w) (h1 : v.ulc = u.ulc) (h2 : v.rqt = u.rqt) (h3 : v.mve = u.mve) :
    StoreAnswered tag o c detail u w := by
  cases tag with
  | some t => exact Answers.of_view h h1 h2 h3
  | none => exact ⟨h.1.trans h1, h.2.1.trans h2, h.2.2.trans h3⟩

/-- R136: a report answers the tag and leaves everything else. -/
theorem reportStore_answers (tag : Option Tag) (o : ReqOutcome) (c : Cause) (detail : Nat) (v : State) :
    StoreAnswered tag o c detail v (reportStore tag o c detail v) ∧ SameMedia v (reportStore tag o c detail v) ∧
      SameManagement v (reportStore tag o c detail v) ∧ (reportStore tag o c detail v).draws = v.draws := by
  cases tag with
  | some t =>
    exact ⟨complete_answers .., .complete (v := v) ⟨rfl, rfl, rfl, rfl, rfl, rfl, rfl⟩ ..,
      .complete (v := v) ⟨rfl, rfl, rfl, rfl⟩ .., complete_draws ..⟩
  | none => exact ⟨⟨rfl, rfl, rfl⟩, ⟨rfl, rfl, rfl, rfl, rfl, rfl, rfl⟩, ⟨rfl, rfl, rfl, rfl⟩, rfl⟩

theorem storeNoted (u : State) : setFlag .store u =
    u.setMgu { u.mgu with flags := { u.mgu.flags with store := true } } := rfl

/-- R134: the part goes to BARE. -/
theorem enterBare_eq (v : State) : enterBare v = (v.setSvm { v.svm with partState := .bare, timer := .stopped }).setMgu
    { v.mgu with flags := { v.mgu.flags with fence := v.mgu.flags.fence || decide (v.svm.partState = .fenced) } } := by
  unfold enterBare
  by_cases h : v.svm.partState = .fenced
  · simp [h, setPartState, setFlag, raiseFlag, State.setSvm, State.setMgu]
  · simp [h, setPartState, State.setSvm, State.setMgu]

/-- Settles O45. -/
theorem storeWriteEndsWell : Obligations.StoreWriteEndsWell := by
  intro s u hs
  simp only [exec_storeWriteEndGood hs]
  refine ⟨fun hop => ?idle, fun img tag hop => ?opening, fun img tag n hop => ?row, fun img tag hop => ?closing,
    fun tag hop => ?wiping⟩
  case idle => simp only [goodWriteEnd, hop]
  case opening =>
    simp only [goodWriteEnd, hop, nextStep, placeWrite]
    rfl
  case row =>
    simp only [goodWriteEnd, hop, nextStep, placeWrite]
    by_cases hn : n = 7 <;> simp only [hn, if_true, if_false] <;> rfl
  case closing =>
    let v := setFlag .store (u.setMst { u.mst with
      header := imageHeader img, op := .idle, storeState := .map, lock := u.mst.lock || img.lock
      lastOp := some ⟨if img.lock then .lock else .save, .good, .none⟩ })
    have hend : goodWriteEnd u = reportStore tag .good .none img.usedCount v := by
      simp only [goodWriteEnd, hop, nextStep]
      rfl
    obtain ⟨hanswer, hmedia, ⟨hx, hg, hm, hy⟩, -⟩ := reportStore_answers tag .good .none img.usedCount v
    rw [hend]
    refine ⟨_, rfl, hm, hg, hx, hy, hmedia, ?_⟩
    cases tag with
    | some t => exact Answers.of_view hanswer rfl rfl rfl
    | none => exact hanswer
  case wiping =>
    by_cases hmve : u.mve = none
    · let v := u.setManagement ⟨ExtMap.empty, u.xmp.generation + 1, ExtMap.empty, false⟩
        { u.mgu with flags := { u.mgu.flags with
          store := true, fence := u.mgu.flags.fence || decide (u.svm.partState = .fenced) } }
        { u.mst with header := invalidHeader, op := .idle, lock := false, lastOp := some ⟨.unlock, .good, .none⟩ }
        { u.svm with partState := .bare, timer := .stopped }
      have hend : goodWriteEnd u = reportStore tag .good .none 0 v := by
        simp only [goodWriteEnd, hop, State.setMst_mve, hmve, Option.isSome_none, Bool.false_eq_true, if_false,
          unlockTakesEffect, enterBare_eq]
        rfl
      obtain ⟨hanswer, hmedia, ⟨hx, hg, hm, hy⟩, -⟩ := reportStore_answers tag .good .none 0 v
      rw [hend]
      refine ⟨_, rfl, hmedia, ?_⟩
      rw [hm, hg, hx, hy]
      simp only [hmve, if_true]
      refine ⟨rfl, fun _ => ⟨fun i => ⟨extMap_empty_get i, extMap_empty_get i⟩, rfl, rfl, rfl, rfl⟩,
        fun h => absurd rfl h, ?_⟩
      cases tag with
      | some t => exact Answers.of_view hanswer rfl rfl rfl
      | none => exact ⟨hanswer.1, hanswer.2.1, hanswer.2.2.trans hmve⟩
    · let v := u.setManagement u.xmp { u.mgu with flags := { u.mgu.flags with store := true } }
        { u.mst with header := invalidHeader, op := .idle, lastOp := some ⟨.unlock, .failed, .moveActive⟩ } u.svm
      have hend : goodWriteEnd u = reportStore tag .failed .moveActive 0 v := by
        simp only [goodWriteEnd, hop, State.setMst_mve, Option.isSome_iff_ne_none.mpr hmve, if_true]
        rfl
      obtain ⟨hanswer, hmedia, ⟨hx, hg, hm, hy⟩, -⟩ := reportStore_answers tag .failed .moveActive 0 v
      rw [hend]
      refine ⟨_, rfl, hmedia, ?_⟩
      rw [hm, hg, hx, hy]
      simp only [hmve, if_false]
      refine ⟨rfl, fun h => h.elim, fun _ => ⟨rfl, rfl, rfl⟩, ?_⟩
      cases tag with
      | some t => exact Answers.of_view hanswer rfl rfl rfl
      | none => exact hanswer

/-- R132: what a bad write leaves of the store image. -/
def LeftBad (op : StoreOp) (m m' : Mst) : Prop :=
  match op with
  | .saving (.row n) _ _ => m'.header = m.header ∧ ∀ k : Fin 8, k ≠ n → m'.rows[k] = m.rows[k]
  | .saving .opening _ _ | .wiping _ => LeftUnknown headerGood m.header invalidHeader m'.header ∧ m'.rows = m.rows
  | .saving .closing img _ => LeftUnknown headerGood m.header (imageHeader img) m'.header ∧ m'.rows = m.rows
  | .idle => False

/-- R132: a bad write spoils the image alone. -/
theorem spoilStore_bad {u : State} (h : u.mst.op ≠ .idle) : ∃ header rows d,
    spoilStore false u = (u.setMst { u.mst with header := header, rows := rows }).setDraws d ∧
      LeftBad u.mst.op u.mst { u.mst with header := header, rows := rows } := by
  unfold spoilStore
  cases hop : u.mst.op with
  | idle => exact absurd hop h
  | wiping t => exact ⟨_, _, _, rfl, unknownHeader_left .., rfl⟩
  | saving step img t =>
    cases step with
    | opening => exact ⟨_, _, _, rfl, unknownHeader_left .., rfl⟩
    | closing => exact ⟨_, _, _, rfl, unknownHeader_left .., rfl⟩
    | row n => exact ⟨_, _, _, rfl, rfl, fun k hk => rows_set_ne hk _⟩

/-- R132: the kind and the detail that the bad end of a write reports. -/
theorem badWriteEnd_reports {u : State} {tag : Option Tag} {kind : StoreKind} {detail : Nat}
    (h : (∃ step img, u.mst.op = .saving step img tag ∧ kind = (if img.lock then .lock else .save) ∧
        detail = writeDetail step) ∨ u.mst.op = .wiping tag ∧ kind = .unlock ∧ detail = 8) :
    u.mst.op ≠ .idle ∧ badWriteEnd u = reportStore tag .failed .storeFail detail
      (endStoreOp kind .failed .storeFail (spoilStore false u)) := by
  obtain ⟨step, img, hop, rfl, rfl⟩ | ⟨hop, rfl, rfl⟩ := h
  · exact ⟨by simp [hop], by simp only [badWriteEnd, hop]; rfl⟩
  · exact ⟨by simp [hop], by simp only [badWriteEnd, hop]⟩

/-- Settles O46. -/
theorem storeWriteEndsBadly : Obligations.StoreWriteEndsBadly := by
  intro s u hs
  simp only [exec_storeWriteEndBad hs]
  refine ⟨fun hop => ?idle, fun tag kind detail hcase => ?bad⟩
  case idle => simp only [badWriteEnd, hop]
  case bad =>
    have hreport : u.mst.op ≠ .idle ∧ _ := badWriteEnd_reports (detail := detail) (kind := kind) (tag := tag) (by
      obtain ⟨step, img, hop, hkind, hdetail⟩ | hwipe := hcase
      · exact .inl ⟨step, img, hop, hkind, by cases step <;> exact hdetail⟩
      · exact .inr hwipe)
    obtain ⟨hop, hend⟩ := hreport
    obtain ⟨header, rows, d, hspoil, hleft⟩ := spoilStore_bad hop
    let v := endStoreOp kind .failed .storeFail ((u.setMst { u.mst with header := header, rows := rows }).setDraws d)
    rw [hspoil] at hend
    obtain ⟨hanswer, hmedia, ⟨hx, hg, hm, hy⟩, -⟩ := reportStore_answers tag .failed .storeFail detail v
    obtain ⟨hpsc, hspa, hports, hout, -⟩ := hmedia
    rw [hend]
    refine ⟨_, rfl, ?_⟩
    rw [hm, hg]
    refine ⟨rfl, rfl, rfl, rfl, rfl, hx, hy, hpsc, hspa, hports, hout, ?_, ?_⟩
    · clear hcase hop
      revert hleft
      generalize u.mst.op = op
      cases op with
      | idle => exact id
      | wiping t => exact id
      | saving step img t => cases step <;> exact id
    · cases tag with
      | some t => exact Answers.of_view hanswer rfl rfl rfl
      | none => exact hanswer

end Sys2Proof.Machine
end

section
/-! SUPPORT. The store judged at the start-up read (R20, R141, R183), and what a save leaves in it (R131). -/

namespace Sys2Proof.Machine

/-! ### Settings by their codes (R150, R183) -/

theorem codeOf_iff (n : Nat) (k : Fin 8) : codeOf n = some k ↔ n = k.val := by
  unfold codeOf
  split
  · next h => rw [Option.some.injEq, Fin.ext_iff]
  · next h => simpa using fun e : n = k.val => h (e ▸ k.isLt)

/-- R179, R183: the code of a mode. -/
def modeNumber : Mode → Nat
  | .off => 0
  | .timeout => 1
  | .window => 2

theorem modeOf_iff (n : Nat) (m : Mode) : modeOf n = some m ↔ n = modeNumber m := by
  unfold modeOf modeNumber
  split <;> cases m <;> simp_all

theorem namesSettings_iff {a b c : Word} {set : Settings} : NamesSettings a b c set ↔
    a.toNat = set.timeoutCode.val ∧ c.toNat = set.periodCode.val ∧ b.toNat = modeNumber set.mode := by
  unfold NamesSettings
  cases set.mode <;> exact Iff.rfl

theorem settings_of_codes {a b c : Nat} {set : Settings} :
    (∃ t m k, codeOf a = some t ∧ modeOf b = some m ∧ codeOf c = some k ∧ ⟨t, m, k⟩ = set) ↔
      a = set.timeoutCode.val ∧ c = set.periodCode.val ∧ b = modeNumber set.mode := by
  simp only [codeOf_iff, modeOf_iff]
  constructor
  · rintro ⟨t, m, k, ha, hb, hc, rfl⟩
    exact ⟨ha, hc, hb⟩
  · rintro ⟨ha, hc, hb⟩
    exact ⟨_, _, _, ha, hb, hc, rfl⟩

/-- R150: SETUP's words name settings by their codes. -/
theorem setupSettings_iff {a b c : Word} {set : Settings} : setupSettings a b c = some set ↔ NamesSettings a b c set := by
  rw [namesSettings_iff, ← settings_of_codes]
  unfold setupSettings
  cases codeOf a.toNat <;> cases modeOf b.toNat <;> cases codeOf c.toNat <;> simp

theorem toNat_byteWord (b : Byte) : (b.setWidth 32).toNat = b.toNat := by
  have := b.isLt
  rw [BitVec.toNat_setWidth]
  omega

/-- R183: the header bytes name settings by their codes. -/
theorem headerSettings_iff {h : List Byte} {set : Settings} {lock : Bool} : headerSettings h = some (set, lock) ↔
    (byteAt h 1).toNat ≤ 1 ∧ lock = decide (byteAt h 1 = 1) ∧
      NamesSettings ((byteAt h 2).setWidth 32) ((byteAt h 3).setWidth 32) ((byteAt h 4).setWidth 32) set := by
  rw [namesSettings_iff, toNat_byteWord, toNat_byteWord, toNat_byteWord, ← settings_of_codes]
  unfold headerSettings
  cases codeOf (byteAt h 2).toNat <;> cases modeOf (byteAt h 3).toNat <;> cases codeOf (byteAt h 4).toNat <;>
    by_cases hlock : (byteAt h 1).toNat ≤ 1 <;> simp [hlock, and_comm, eq_comm]

/-! ### What MST judges (R20, R141) -/

theorem storedMap_get (rows : Vector (Vector Byte 130) 8) (i : Fin 64) :
    (storedMap rows)[i] = normalExtent (storedExtent rows i.val) := by
  simp [storedMap]

theorem all_rowGood (rows : Vector (Vector Byte 130) 8) :
    rows.toList.all rowGood = true ↔ ∀ n : Fin 8, rowGood rows[n] = true := by
  simp only [List.all_eq_true, Vector.mem_toList_iff, Vector.mem_iff_getElem]
  constructor
  · exact fun h n => h _ ⟨n.val, n.isLt, rfl⟩
  · rintro h _ ⟨i, hi, rfl⟩
    exact h ⟨i, hi⟩

/-- R20, R141: the store holds a map and settings. -/
structure Stored (m : Mst) (map : ExtMap) (set : Settings) : Prop where
  header : headerGood m.header = true
  state : byteAt m.header.toList 0 = 2
  rows : ∀ n : Fin 8, rowGood m.rows[n] = true
  records : ∀ i : Fin 64, map[i] = normalExtent (storedExtent m.rows i.val)
  valid : ∀ i, ¬RecordFails map i
  count : usedCount map = (byteAt m.header.toList 5).toNat
  lock : (byteAt m.header.toList 1).toNat ≤ 1
  settings : NamesSettings ((byteAt m.header.toList 2).setWidth 32) ((byteAt m.header.toList 3).setWidth 32)
    ((byteAt m.header.toList 4).setWidth 32) set

theorem Stored.map_eq {m : Mst} {map : ExtMap} {set : Settings} (h : Stored m map set) : storedMap m.rows = map := by
  refine Vector.ext fun i hi => ?_
  exact (storedMap_get m.rows ⟨i, hi⟩).trans (h.records ⟨i, hi⟩).symm

theorem firstBadIndex_none (map : ExtMap) : firstBadIndex map = none ↔ ∀ i, ¬RecordFails map i :=
  (firstBadIndexIsLowest map).2

theorem judgeStore_stored {m : Mst} {map : ExtMap} {set : Settings} (h : Stored m map set) : judgeStore m =
    .stored map (halfAt m.header.toList 6) set (decide (byteAt m.header.toList 1 = 1)) := by
  have hset := headerSettings_iff.mpr ⟨h.lock, rfl, h.settings⟩
  simp [judgeStore, h.header, h.state, (all_rowGood m.rows).mpr h.rows, h.map_eq, (firstBadIndex_none map).mpr h.valid,
    hset, h.count]

theorem judgeStore_identity {m : Mst} (hgood : headerGood m.header = true) (hid : byteAt m.header.toList 0 = 1) :
    judgeStore m = .identity := by
  simp [judgeStore, hgood, hid]

theorem judgeStore_other {m : Mst} (hid : ¬(headerGood m.header = true ∧ byteAt m.header.toList 0 = 1))
    (hstored : ∀ map set, ¬Stored m map set) : judgeStore m = .other := by
  unfold judgeStore
  by_cases hgood : headerGood m.header = true
  · have hnot1 : byteAt m.header.toList 0 ≠ 1 := fun h => hid ⟨hgood, h⟩
    by_cases hstate : byteAt m.header.toList 0 = 2
    · by_cases hrows : m.rows.toList.all rowGood = true
      · simp only [hgood, hstate, hrows]
        cases hbad : firstBadIndex (storedMap m.rows) with
        | some i => rfl
        | none =>
          cases hset : headerSettings m.header.toList with
          | none => rfl
          | some x =>
            obtain ⟨set, lock⟩ := x
            obtain ⟨hlock, -, hnames⟩ := headerSettings_iff.mp hset
            have hcount : usedCount (storedMap m.rows) ≠ (byteAt m.header.toList 5).toNat := fun hcount =>
              hstored _ set ⟨hgood, hstate, (all_rowGood m.rows).mp hrows, storedMap_get m.rows,
                (firstBadIndex_none _).mp hbad, hcount, hlock, hnames⟩
            simp [hcount]
      · simp [hgood, hstate, hrows]
    · simp only [hgood, Bool.true_eq_false, if_false, hnot1, ne_eq, hstate, not_false_eq_true, if_true]
  · simp [hgood]

/-! ### The start-up load (R20, R141) -/

theorem exec_startUpReadEnd {s u : State} (hs : StandsAt s u) : exec .startUpReadEnd s = .next (finish (readEnd u)) :=
  congrArg Host.Outcome.next (event_at hs readEnd)

/-- R20, R141: XMP, MGU and MST hold what was loaded. -/
def holding (map : ExtMap) (gen : Half) (set : Settings) (lock : Bool) (st : StoreState) (u : State) : State :=
  u.setManagement { u.xmp with active := map, generation := gen } { u.mgu with settings := set }
    { u.mst with reading := false, lock := lock, storeState := st } u.svm

/-- R20: what a load does before the part leaves LOADING. -/
theorem loadStore_eq (u : State) : loadStore u =
    match judgeStore u.mst with
    | .stored map gen set lock => enterService (holding map gen set lock .map u)
    | .identity => enterService (holding identityMap 0 Settings.default false .identity u)
    | .other => setPartState .bare (holding ExtMap.empty 0 Settings.default false .invalid u) := by
  unfold loadStore
  cases judgeStore u.mst <;> rfl

theorem setPartState_bare {v : State} (h : v.svm.timer = .stopped) :
    setPartState .bare v = v.setSvm { v.svm with partState := .bare } := by
  rw [setPartState, ← h]
  rfl

/-- R20, R141, R152: what a part that leaves LOADING holds. -/
def Loaded (map : ExtMap) (gen : Half) (set : Settings) (lock : Bool) (st : StoreState) (u w : State) : Prop :=
  SameMedia u w ∧ w.rqt = u.rqt ∧ w.ulc = u.ulc ∧
  (∀ i : Fin 64, w.xmp.active[i] = map[i]) ∧ w.xmp.generation = gen ∧ w.xmp.staging = u.xmp.staging ∧
  w.xmp.stagingOpen = u.xmp.stagingOpen ∧ w.mst = { u.mst with reading := false, lock := lock, storeState := st } ∧
  (st = .invalid → w.mgu = { u.mgu with settings := set } ∧ w.svm = { u.svm with partState := .bare }) ∧
  (st ≠ .invalid → (u.svm.causes.supervision = true ∨ u.svm.causes.pin = true) →
    w.svm = { u.svm with partState := .fenced } ∧
    w.mgu = { u.mgu with settings := set, flags := { u.mgu.flags with fence := true } }) ∧
  (st ≠ .invalid → u.svm.causes = ⟨false, false⟩ → w.mgu = { u.mgu with settings := set } ∧
    w.svm = { (if set.mode = .off then u.svm else periodStarts set u.svm) with partState := .run })

theorem loaded_bare {u : State} (ht : u.svm.timer = .stopped) (map : ExtMap) (gen : Half) (set : Settings)
    (lock : Bool) : Loaded map gen set lock .invalid u (setPartState .bare (holding map gen set lock .invalid u)) := by
  rw [setPartState_bare (by exact ht)]
  exact ⟨⟨rfl, rfl, rfl, rfl, rfl, rfl, rfl⟩, rfl, rfl, fun _ => rfl, rfl, rfl, rfl, rfl, fun _ => ⟨rfl, rfl⟩,
    fun h => absurd rfl h, fun h => absurd rfl h⟩

theorem loaded_service {u : State} (ht : u.svm.timer = .stopped) (map : ExtMap) (gen : Half) (set : Settings)
    (lock : Bool) {st : StoreState} (hst : st ≠ .invalid) :
    Loaded map gen set lock st u (enterService (holding map gen set lock st u)) := by
  have hcauses : (holding map gen set lock st u).svm.causes = u.svm.causes := rfl
  by_cases h : anyCause u.svm.causes = true
  · rw [enterService_fenced (by exact h) (by exact ht)]
    refine ⟨⟨rfl, rfl, rfl, rfl, rfl, rfl, rfl⟩, rfl, rfl, fun _ => rfl, rfl, rfl, rfl, rfl, fun h => absurd h hst,
      fun _ _ => ⟨rfl, rfl⟩, fun _ hnone => ?_⟩
    rw [hnone] at h
    nomatch h
  · rw [enterService_run (by exact Bool.eq_false_iff.mpr h)]
    rw [anyCause_iff] at h
    exact ⟨⟨rfl, rfl, rfl, rfl, rfl, rfl, rfl⟩, rfl, rfl, fun _ => rfl, rfl, rfl, rfl, rfl, fun h => absurd h hst,
      fun _ hsome => absurd hsome h, fun _ _ => ⟨rfl, rfl⟩⟩

theorem identityMap_get (i : Fin 64) : identityMap[i] = if i.val < 4 then
    ⟨1, BitVec.ofNat 8 i.val, BitVec.ofNat 8 i.val, 0, false, false, 0, 4294967295, 0⟩ else Extent.empty := by
  revert i
  decide

/-- Settles O47. -/
theorem startUpReadEnds : Obligations.StartUpReadEnds := by
  intro s u hs hsound c h identity stored loaded
  have hexec := exec_startUpReadEnd hs
  refine ⟨fun hr => ?notRunning, fun hr => ?running⟩
  case notRunning =>
    show exec .startUpReadEnd s = _
    rw [hexec]
    simp [readEnd, hr]
  case running =>
    have hload : readEnd u = loadStore u := if_pos hr
    have ht : u.svm.timer = .stopped :=
      hsound.timer_stopped (by rw [(hsound.2.2.2.2.2 hr).1]; nofun)
    have hstored : ∀ {map set}, stored map set → Stored u.mst map set :=
      fun ⟨h1, h2, h3, h4, h5, h6, h7, h8⟩ => ⟨h1, h2, h3, h4, h5, h6, h7, h8⟩
    rw [hload, loadStore_eq] at hexec
    refine ⟨fun ⟨hgood, hid⟩ => ⟨identityMap, ?_, identityMap_get⟩, fun map set hmap => ?_, fun hid hnone => ?_⟩
    · rw [judgeStore_identity hgood hid] at hexec
      exact ⟨_, hexec, loaded_service ht _ _ _ _ nofun⟩
    · rw [judgeStore_stored (hstored hmap)] at hexec
      exact ⟨_, hexec, loaded_service ht _ _ _ _ nofun⟩
    · have hother : judgeStore u.mst = .other := judgeStore_other hid fun map set hs => hnone map set
        ⟨hs.header, hs.state, hs.rows, hs.records, hs.valid, hs.count, hs.lock, hs.settings⟩
      rw [hother] at hexec
      exact ⟨_, hexec, loaded_bare ht _ _ _ _⟩

/-! ### What a save leaves (R131, R183) -/

/-- R131: the header that a save closes with, byte by byte. -/
theorem imageHeader_bytes (img : SaveImage) : (imageHeader img).toList =
    [storeStateCode .map, bit img.lock, BitVec.ofNat 8 img.settings.timeoutCode, modeCode img.settings.mode,
      BitVec.ofNat 8 img.settings.periodCode, BitVec.ofNat 8 img.usedCount] ++ leBytes 2 img.generation.toNat ++
    checkBytes ([storeStateCode .map, bit img.lock, BitVec.ofNat 8 img.settings.timeoutCode, modeCode img.settings.mode,
      BitVec.ofNat 8 img.settings.periodCode, BitVec.ofNat 8 img.usedCount] ++ leBytes 2 img.generation.toNat) :=
  toList_packBytes (by rw [List.length_append, length_checkBytes]; rfl)

/-- R131: the records of row `n` of a save image. -/
def rowRecords (img : SaveImage) (n : Nat) : List Extent := (img.records.toList.drop (8 * n)).take 8

theorem length_rowRecords (img : SaveImage) (n : Fin 8) : (rowRecords img n).length = 8 := by
  rw [rowRecords, List.length_take, List.length_drop, Vector.length_toList]
  omega

theorem imageRow_bytes (img : SaveImage) (n : Fin 8) : (imageRow img n).toList =
    (rowRecords img n).flatMap encodeExtent ++ checkBytes ((rowRecords img n).flatMap encodeExtent) :=
  toList_packBytes (by
    rw [List.length_append, length_checkBytes]
    exact congrArg (· + 2) ((length_records (rowRecords img n)).trans (by rw [length_rowRecords])))

theorem rowGood_imageRow (img : SaveImage) (n : Fin 8) : rowGood (imageRow img n) = true := by
  rw [rowGood, imageRow_bytes]
  exact checkGood_append (by rw [length_records, length_rowRecords])

theorem headerGood_imageHeader (img : SaveImage) : headerGood (imageHeader img) = true := by
  rw [headerGood, imageHeader_bytes]
  exact checkGood_append rfl

/-- R131, R183: the rows of a save image hold its records. -/
theorem storedExtent_image {rows : Vector (Vector Byte 130) 8} {img : SaveImage} (h : ∀ n : Fin 8, rows[n] = imageRow img n)
    (i : Fin 64) : storedExtent rows i.val = img.records[i] := by
  have hj : i.val % 8 < (rowRecords img (Fin.ofNat 8 (i.val / 8)).val).length := by
    rw [length_rowRecords]
    exact Nat.mod_lt _ (by decide)
  have hn : (Fin.ofNat 8 (i.val / 8)).val = i.val / 8 := Nat.mod_eq_of_lt (by omega)
  rw [storedExtent, h, recordBytes, imageRow_bytes, records_window hj, decodeExtent_encodeExtent]
  simp only [rowRecords, List.getElem_take, List.getElem_drop, hn, Vector.getElem_toList, Nat.div_add_mod]
  rfl

theorem usedCount_le (m : ExtMap) : usedCount m ≤ 64 := Nat.le_trans List.countP_le_length (Nat.le_of_eq (Vector.length_toList ..))

/-- Settles O48: header and rows are read back byte by byte. -/
theorem savedMapLoads : Obligations.SavedMapLoads := by
  intro m img hnormal hvalid hcount hheader hrows
  have hbytes := hheader ▸ imageHeader_bytes img
  have hcode (k : Fin 8) : (BitVec.ofNat 8 k.val).toNat = k.val := toNat_ofNat_fin (by decide) k
  have hstored : Stored m img.records img.settings := by
    refine ⟨hheader ▸ headerGood_imageHeader img, by rw [hbytes]; rfl, fun n => hrows n ▸ rowGood_imageRow img n,
      fun i => ?_, hvalid, ?_, ?_, ?_⟩
    · rw [storedExtent_image hrows]
      exact hnormal i
    · have hbyte : (byteAt m.header.toList 5).toNat = img.usedCount % 256 := by
        rw [hbytes]
        exact BitVec.toNat_ofNat ..
      have hle := usedCount_le img.records
      have hsame : img.usedCount = usedCount img.records := hcount
      rw [hbyte, hsame, Nat.mod_eq_of_lt (by omega)]
    · have hbyte : byteAt m.header.toList 1 = bit img.lock := by rw [hbytes]; rfl
      rw [hbyte]
      cases img.lock <;> decide
    · rw [namesSettings_iff, toNat_byteWord, toNat_byteWord, toNat_byteWord, hbytes]
      refine ⟨hcode _, hcode _, ?_⟩
      show (modeCode img.settings.mode).toNat = _
      cases img.settings.mode <;> rfl
  have hgen : halfAt m.header.toList 6 = img.generation := by
    rw [hbytes]
    exact half_leBytes img.generation
  have hlock : decide (byteAt m.header.toList 1 = 1) = img.lock := by
    rw [hbytes]
    cases img.lock <;> rfl
  rw [judgeStore_stored hstored, hgen, hlock]

end Sys2Proof.Machine
end

section
/-! SUPPORT. PORT ONLINE and MOVE at their arrival (R92, R94, R98, R99). -/

namespace Sys2Proof.Machine

/-! ### A request answered after its own effect -/

/-- R41, R160: MGU takes a request, and its answer follows what it does to the part. -/
theorem exec_answers {s u v : State} {t : Tag} {o : ReqOutcome} {cause : Cause} {d : Nat} (c : Instr) (k : Kind)
    (p0 p1 p2 : Word) (hs : StandsAt s u) (ht : TakenAtOnce t u)
    (hc : requestIn c = some (paramRequest k t 7 p0 p1 p2)) (hq : queuesAtMgu k = true)
    (h : mguActs t (freshEntry .active k 7 0 0 p0 p1 p2 []) (takeManagement t k p0 p1 p2 u) = complete t o cause 0 d v)
    (h1 : v.ulc = (takeManagement t k p0 p1 p2 u).ulc) (h2 : v.rqt = (takeManagement t k p0 p1 p2 u).rqt)
    (h3 : v.mve = (takeManagement t k p0 p1 p2 u).mve) :
    exec c s = .next (finish (complete t o cause 0 d v)) ∧ Answers t o cause 0 d u (complete t o cause 0 d v) := by
  refine ⟨?_, ?_⟩
  · rw [exec_taken (k := k) (p0 := p0) (p1 := p1) (p2 := p2) hs ht hc hq, h]
  · have hanswer := (complete_answers t o cause 0 d v).of_view h1 h2 h3
    exact Answers.of_take hanswer

/-! ### PORT ONLINE (R92, R94) -/

theorem portOfWord_none {n : Word} (h : 3 < n.toNat) : portOfWord n = none := dif_neg (by omega)

theorem portOfWord_some {n : Word} {p : PortId} (h : n.toNat = p.val) : portOfWord n = some p := by
  have hlt : n.toNat < 4 := by omega
  rw [portOfWord, dif_pos hlt]
  exact congrArg some (Fin.ext h)

/-- R94: a port that is not OFFLINE ignores PORT ONLINE. -/
theorem portOnlineTaken_other {p : PortId} {v : State} (h : (portOf p v).state ≠ .offline) :
    portOnlineTaken p v = v := if_neg h

/-- R94: the part once an OFFLINE port `p` has been taken ONLINE. -/
def onlineTaken (p : PortId) (v : State) : State :=
  ((portNoted v).setPorts (v.ports.set p
    (if v.pins.presentLow[p] then probing .probing { portOf p v with faults := 0 }
      else { portOf p v with state := .down, faults := 0, mrst := false }))).setOut
    (if v.pins.presentLow[p] then { v.out with media := v.out.media ++ probeFrames p } else v.out)

/-- R94: an OFFLINE port probes, or is DOWN with no unit present. -/
theorem portOnlineTaken_offline {p : PortId} {v : State} (h : (portOf p v).state = .offline) :
    portOnlineTaken p v = onlineTaken p v := by
  have hself (x : Port) (w : State) : portOf p (w.setPorts (w.ports.set p x)) = x := Vector.getElem_set_self ..
  have htwice (x y : Port) (w : Vector Port 4) : (w.set p x).set p y = w.set p y := by simp
  unfold portOnlineTaken onlineTaken
  rw [if_pos h]
  have hpins : (setFlag .port (modPort p (fun x => { x with faults := 0, mrst := false }) v)).pins = v.pins := rfl
  dsimp only
  rw [hpins]
  by_cases hpresent : v.pins.presentLow[p] = true
  · rw [if_pos hpresent, if_pos hpresent, if_pos hpresent, startProbe_eq]
    simp only [setFlag, modPort, setPort, State.setMgu_ports, State.setPorts_ports, htwice]
    have hport : portOf p ((v.setPorts (v.ports.set p { portOf p v with faults := 0, mrst := false })).setMgu
        { v.mgu with flags := raiseFlag .port v.mgu.flags }) = { portOf p v with faults := 0, mrst := false } :=
      hself _ v
    simp only [State.setPorts_mgu, hport]
    rfl
  · rw [if_neg hpresent, if_neg hpresent, if_neg hpresent]
    simp only [setFlag, modPort, setPort, State.setMgu_ports, State.setPorts_ports, htwice]
    have hport : portOf p ((v.setPorts (v.ports.set p { portOf p v with faults := 0, mrst := false })).setMgu
        { v.mgu with flags := raiseFlag .port v.mgu.flags }) = { portOf p v with faults := 0, mrst := false } :=
      hself _ v
    simp only [State.setPorts_mgu, hport]
    rfl

/-- R166: PORT ONLINE at MGU. -/
theorem mguPort_online {t : Tag} {e : Entry} {p : PortId} (h0 : portOfWord e.p0 = some p) (h1 : e.p1 = 1) (v : State) :
    mguPort t e v = complete t .good .none 0 p.val (portOnlineTaken p v) := by
  simp only [mguPort, h0, h1]
  rfl

/-- Settles O23. -/
theorem Settled.portOnlineTaken : Obligations.PortOnlineTaken := by
  intro s u t n hs ht
  refine ⟨fun hn => exec_refused hs ht rfl rfl ?_, fun p hn => ?_⟩
  · show mguPort t _ _ = _
    have hnone : portOfWord (freshEntry .active .port 7 0 0 n 1 0 []).p0 = none := portOfWord_none hn
    simp only [mguPort, hnone]
  · intro x
    let v := takeManagement t .port n 1 0 u
    have hacts : mguActs t (freshEntry .active .port 7 0 0 n 1 0 []) v =
        complete t .good .none 0 p.val (Machine.portOnlineTaken p v) := mguPort_online (portOfWord_some hn) rfl v
    refine ⟨fun hx => ?_, fun hx => ?_⟩
    · rw [portOnlineTaken_other (by exact hx)] at hacts
      obtain ⟨w, hexec, hanswer, hmedia, hxmp, hmgu, hmst, hsvm⟩ :=
        exec_answered (x := u.xmp) (g := u.mgu) (m := u.mst) (y := u.svm) (.portOnline t 7 n) .port n 1 0 hs ht rfl rfl
          hacts
      exact ⟨w, hexec, hanswer, hmedia, hxmp, hmgu, hmst, hsvm⟩
    · rw [portOnlineTaken_offline (by exact hx)] at hacts
      obtain ⟨hexec, hanswer⟩ := exec_answers (.portOnline t 7 n) .port n 1 0 hs ht rfl rfl hacts rfl rfl rfl
      refine ⟨_, hexec, hanswer, SameManagement.complete (u := portNoted u) (v := onlineTaken p v)
        ⟨rfl, rfl, rfl, rfl⟩ t .good .none 0 p.val, ?_⟩
      rw [complete_psc, complete_spa, complete_ports, complete_out]
      exact ⟨rfl, rfl, rfl, rfl⟩

end Sys2Proof.Machine
end

section
/-! SUPPORT. MOVE at its arrival (R98, R99). -/

namespace Sys2Proof.Machine

/-! ### The operands of a MOVE (R179) -/

theorem moveUnit_moveWord (d p : Byte) : moveUnit (moveWord d p) = d := by
  unfold moveUnit moveWord
  ext i hi
  have hword : i < 32 := by omega
  simp [hi, hword]

theorem movePort_moveWord (d p : Byte) : movePort (moveWord d p) = p := by
  unfold movePort moveWord
  ext i hi
  have hhigh : 8 + i < 32 := by omega
  simp [hi, hhigh]

/-! ### The checks (R98) -/

/-- A search of the entries of an indexed list by a test of the entry alone. -/
theorem find_zipIdx {α : Type} (c : α → Bool) (l : List α) (n : Nat) :
    (((l.zipIdx n).map fun x => (x.2, x.1)).find? fun x => c x.2).map (·.2) = l.find? c := by
  induction l generalizing n with
  | nil => rfl
  | cons a l ih =>
    rw [List.zipIdx_cons, List.map_cons, List.find?_cons, List.find?_cons]
    cases c a
    · exact ih (n + 1)
    · rfl

theorem namedExtent_snd (m : ExtMap) (unit : Byte) (lstart : Word) : (namedExtent m unit lstart).map (·.2) =
    m.toList.find? fun e => e.used = 1 && e.unit = unit && e.lstart = lstart := by
  exact find_zipIdx (fun e => isUsed e && e.unit = unit && e.lstart = lstart) m.toList 0

/-- R98: an extent on port `p` whose physical range meets [a, b). -/
def Overlaps (m : ExtMap) (p : PortId) (a b : Nat) (i : Fin 64) : Prop :=
  m[i].used = 1 ∧ extentPort m[i] = p ∧ a < m[i].pstart.toNat + m[i].length.toNat ∧ m[i].pstart.toNat < b

theorem overlap_test (m : ExtMap) (p : PortId) (a b : Nat) (i : Fin 64) :
    (isUsed m[i] && extentPort m[i] = p && rangesMeet a b m[i].pstart.toNat (physicalStop m[i])) = true ↔
      Overlaps m p a b i := by
  simp only [isUsed, rangesMeet, physicalStop, Bool.and_eq_true, decide_eq_true_iff, Overlaps, and_assoc]
  exact and_congr_right fun _ => and_congr_right fun _ => and_congr_left fun _ => decide_eq_true_iff

theorem firstOverlap_none {m : ExtMap} {p : PortId} {a b : Nat} (h : ∀ i, ¬Overlaps m p a b i) :
    firstOverlap m p a b = none := by
  rw [firstOverlap, List.findIdx?_eq_none_iff]
  intro e he
  obtain ⟨i, hi, rfl⟩ := Vector.mem_iff_getElem.mp (Vector.mem_toList_iff.mp he)
  exact Bool.eq_false_iff.mpr fun ht => h ⟨i, hi⟩ ((overlap_test m p a b ⟨i, hi⟩).mp ht)

theorem firstOverlap_some {m : ExtMap} {p : PortId} {a b : Nat} {i : Fin 64} (h : Overlaps m p a b i)
    (hfirst : ∀ j, j < i → ¬Overlaps m p a b j) : firstOverlap m p a b = some i.val := by
  rw [firstOverlap, List.findIdx?_eq_some_iff_getElem]
  refine ⟨by rw [Vector.length_toList]; exact i.isLt, ?_, fun j hj => ?_⟩
  · exact (overlap_test m p a b i).mpr h
  · have hlt : j < 64 := Nat.lt_trans hj i.isLt
    exact fun ht => hfirst ⟨j, hlt⟩ hj ((overlap_test m p a b ⟨j, hlt⟩).mp ht)

/-- R98: the destination of a MOVE fits. -/
def MoveFits (d p : Byte) (a : Word) (e : Extent) : Prop :=
  d.toNat ≤ 3 ∧ p.toNat ≤ 3 ∧ a.toNat + e.length.toNat ≤ 4294967296

/-- R99: the context that a MOVE of the extent `e` starts, before its first chunk is fixed. -/
def freshMove (t : Tag) (d p : Byte) (l a : Word) (e : Extent) : Move :=
  ⟨false, t, d, l.toNat, e.length.toNat, extentPort e, e.pstart.toNat, Fin.ofNat 4 p.toNat, a.toNat, e.verify, 0,
    none, none, [], [], []⟩

theorem namedExtent_none {m : ExtMap} {d : Byte} {l : Word}
    (h : (m.toList.find? fun e => e.used = 1 && e.unit = d && e.lstart = l) = none) : namedExtent m d l = none := by
  rw [← namedExtent_snd] at h
  exact Option.map_eq_none_iff.mp h

theorem namedExtent_some {m : ExtMap} {d : Byte} {l : Word} {e : Extent}
    (h : (m.toList.find? fun e => e.used = 1 && e.unit = d && e.lstart = l) = some e) :
    ∃ i, namedExtent m d l = some (i, e) := by
  rw [← namedExtent_snd] at h
  obtain ⟨⟨i, e'⟩, hn, rfl⟩ := Option.map_eq_some_iff.mp h
  exact ⟨i, hn⟩

/-- R98: the checks on the part come before those on the extent. -/
def MoveOpen (s : State) : Prop :=
  s.svm.partState ≠ .bare ∧ s.mst.lock = false ∧ s.svm.partState ≠ .fenced ∧ s.mve = none

theorem moveChecks_badParam {t : Tag} {d p : Byte} {l a : Word} {s : State} (ho : MoveOpen s)
    (h : ∀ e, (s.xmp.active.toList.find? fun e => e.used = 1 && e.unit = d && e.lstart = l) = some e → ¬MoveFits d p a e) :
    moveChecks t (moveWord d p) l a s = .inl (.badParam, 0) := by
  obtain ⟨h1, h2, h3, h4⟩ := ho
  unfold moveChecks
  rw [if_neg h1, h2, if_neg Bool.false_ne_true, if_neg h3, h4, if_neg (by simp), moveUnit_moveWord, movePort_moveWord]
  cases hnamed : s.xmp.active.toList.find? fun e => e.used = 1 && e.unit = d && e.lstart = l with
  | none => rw [namedExtent_none hnamed]
  | some e =>
    obtain ⟨i, hi⟩ := namedExtent_some hnamed
    have hfit : 3 < d.toNat ∨ 3 < p.toNat ∨ 4294967296 < a.toNat + e.length.toNat := by
      have := h e hnamed
      unfold MoveFits at this
      omega
    simp only [hi, hfit, if_true]

/-- R98: the checks on the ports and on the map. -/
theorem moveChecks_named {t : Tag} {d p : Byte} {l a : Word} {s : State} {e : Extent} (ho : MoveOpen s)
    (hnamed : (s.xmp.active.toList.find? fun e => e.used = 1 && e.unit = d && e.lstart = l) = some e)
    (hfit : MoveFits d p a e) : moveChecks t (moveWord d p) l a s =
      if (portOf (extentPort e) s).state ≠ .ready then .inl (.portOffline, (extentPort e).val)
      else if (portOf (Fin.ofNat 4 p.toNat) s).state ≠ .ready then .inl (.portOffline, (Fin.ofNat 4 p.toNat).val)
      else ((firstOverlap s.xmp.active (Fin.ofNat 4 p.toNat) a.toNat (a.toNat + e.length.toNat)).map fun i =>
        Sum.inl (.overlap, i)).getD (.inr (freshMove t d p l a e)) := by
  obtain ⟨h1, h2, h3, h4⟩ := ho
  obtain ⟨i, hi⟩ := namedExtent_some hnamed
  have hfound := List.find?_some hnamed
  simp only [Bool.and_eq_true, decide_eq_true_iff] at hfound
  obtain ⟨⟨-, rfl⟩, rfl⟩ := hfound
  have hno : ¬(3 < e.unit.toNat ∨ 3 < p.toNat ∨ 4294967296 < a.toNat + e.length.toNat) := by
    unfold MoveFits at hfit
    omega
  unfold moveChecks
  rw [if_neg h1, h2, if_neg Bool.false_ne_true, if_neg h3, h4, if_neg (by simp), moveUnit_moveWord, movePort_moveWord,
    hi]
  simp only [hno, if_false]
  cases firstOverlap s.xmp.active (Fin.ofNat 4 p.toNat) a.toNat (a.toNat + e.length.toNat) <;> rfl

/-! ### The start of a move (R99, R101) -/

theorem startMove_refused {t : Tag} {p0 l a : Word} {s : State} {c : Cause} {d : Nat}
    (h : moveChecks t p0 l a s = .inl (c, d)) : startMove t p0 l a s = complete t .refused c 0 d s := by
  simp only [startMove, h]

theorem startMove_starts {t : Tag} {p0 l a : Word} {s : State} {m : Move} (h : moveChecks t p0 l a s = .inr m) :
    startMove t p0 l a s = fixChunk m (s.setXmp { s.xmp with active := mapVec (markMoving m) s.xmp.active }) := by
  simp only [startMove, h]

/-- R101: the blocking set reads nothing of a move but its extent, its cursor, its chunk and its dual set. -/
theorem blocksChunk_congr {m m' : Move} {t : Tag} {s s' : State} (h : m'.chunk = m.chunk ∧ m'.unit = m.unit ∧
    m'.lstart = m.lstart ∧ m'.cursor = m.cursor ∧ m'.dual = m.dual) (he : entryOf t s' = entryOf t s)
    (hp : ∀ id, pieceOf id s' = pieceOf id s) : BlocksChunk m' t s' ↔ BlocksChunk m t s := by
  obtain ⟨h1, h2, h3, h4, h5⟩ := h
  simp only [BlocksChunk, h1, h2, h3, h4, h5, he, hp]

theorem markMoving_get {m : Move} {d : Byte} {l : Word} (hd : m.unit = d) (hl : m.lstart = l.toNat) (x : Extent) :
    markMoving m x = if x.used = 1 ∧ x.unit = d ∧ x.lstart = l then { x with moving := true } else x := by
  simp only [markMoving, isUsed, decide_eq_true_iff, hd, hl, BitVec.toNat_inj]

/-- Settles O24. -/
theorem moveJudged : Obligations.MoveJudged := by
  intro s u t d p l a hs ht c named dst fits meets ready
  let v := takeManagement t .move (moveWord d p) l a u
  have hacts : mguActs t (freshEntry .active .move 7 0 0 (moveWord d p) l a []) v =
      startMove t (moveWord d p) l a v := rfl
  refine ⟨fun cause detail hcase => exec_refused (c := c) hs ht rfl rfl ?refused,
    fun e hrun hlock hmve hnamed hfit hsrc hdst hno => ?started⟩
  case refused =>
    rw [hacts]
    refine startMove_refused ?_
    obtain ⟨hbare, rfl, rfl⟩ | ⟨hbare, ⟨hlock, rfl, rfl⟩ | ⟨hlock, ⟨hfenced, rfl, rfl⟩ | ⟨hfenced, ⟨hmve, rfl, rfl⟩ |
      ⟨hmve, hcase⟩⟩⟩⟩ := hcase
    · exact if_pos hbare
    · exact (if_neg hbare).trans (if_pos hlock)
    · have h2 : ¬v.mst.lock = true := by rw [show v.mst.lock = false from hlock]; nofun
      exact (if_neg hbare).trans ((if_neg h2).trans (if_pos hfenced))
    · have h2 : ¬v.mst.lock = true := by rw [show v.mst.lock = false from hlock]; nofun
      exact (if_neg hbare).trans ((if_neg h2).trans ((if_neg hfenced).trans (if_pos hmve)))
    · have ho : MoveOpen v := ⟨hbare, hlock, hfenced, hmve⟩
      obtain ⟨hnone, rfl, rfl⟩ | ⟨e, hnamed, hfit, hcase⟩ := hcase
      · exact moveChecks_badParam ho hnone
      · rw [moveChecks_named ho hnamed hfit]
        obtain ⟨hsrc, rfl, rfl⟩ | ⟨hsrc, ⟨hdst, rfl, rfl⟩ | ⟨hdst, rfl, i, rfl, hmeet, hfirst⟩⟩ := hcase
        · exact if_pos hsrc
        · exact (if_neg (Classical.not_not.mpr hsrc)).trans (if_pos hdst)
        · refine (if_neg (Classical.not_not.mpr hsrc)).trans ((if_neg (Classical.not_not.mpr hdst)).trans ?_)
          have hfound : firstOverlap v.xmp.active dst a.toNat (a.toNat + e.length.toNat) = some i.val :=
            firstOverlap_some hmeet hfirst
          simp only [dst] at hfound
          rw [hfound]
          rfl
  case started =>
    have ho : MoveOpen v := ⟨by rw [show v.svm.partState = .run from hrun]; nofun, hlock,
      by rw [show v.svm.partState = .run from hrun]; nofun, hmve⟩
    have hchecks : moveChecks t (moveWord d p) l a v = .inr (freshMove t d p l a e) := by
      rw [moveChecks_named ho hnamed hfit]
      refine (if_neg (Classical.not_not.mpr hsrc)).trans ((if_neg (Classical.not_not.mpr hdst)).trans ?_)
      have hfound : firstOverlap v.xmp.active dst a.toNat (a.toNat + e.length.toNat) = none := firstOverlap_none hno
      simp only [dst] at hfound
      rw [hfound]
      rfl
    let m := freshMove t d p l a e
    let act := mapVec (markMoving m) u.xmp.active
    let v' := v.setXmp { u.xmp with active := act }
    let held := { m with chunk := some ⟨min 8 (e.length.toNat - 0), .held⟩ }
    refine ⟨act, allTags.filter fun t' => holdsChunk held t' v', ?_, fun t' => ?_, fun i => ?_⟩
    · rw [exec_taken (k := .move) (p0 := moveWord d p) (p1 := l) (p2 := a) hs ht rfl rfl]
      refine congrArg (fun w => Host.Outcome.next (finish w)) ?_
      exact hacts.trans (startMove_starts hchecks)
    · rw [mem_blocking]
      exact blocksChunk_congr ⟨rfl, rfl, rfl, rfl, rfl⟩ rfl fun _ => rfl
    · exact (mapVec_get _ _ i).trans (markMoving_get rfl rfl _)

end Sys2Proof.Machine
end

section
/-! SUPPORT. What ends bring with them, whichever they are (R35, R41, R60, R65, R72, R176): pieces, grants and entries
only go, what went is gone altogether, and what stays is what it was, but for the shadow parts and the owners that an
abort takes off (R111). -/

namespace Sys2Proof.Machine

/-! ### The relation -/

/-- R111: a piece that is what it was, but that an abort may have taken off its shadow part, or detached it if it is a
copy. -/
structure Changed (r r' : Piece) : Prop where
  shadow : r'.shadow = r.shadow ∨ r'.shadow = none
  owner : r'.owner = r.owner ∨ r.kind = .cp ∧ r'.owner = .discard
  rest : r' = { r with owner := r'.owner, shadow := r'.shadow }

namespace Changed

theorem refl (r : Piece) : Changed r r := ⟨.inl rfl, .inl rfl, rfl⟩

variable {r r' r'' : Piece}

theorem kind (h : Changed r r') : r'.kind = r.kind := (congrArg Piece.kind h.rest :)
theorem state (h : Changed r r') : r'.state = r.state := (congrArg Piece.state h.rest :)
theorem slots (h : Changed r r') : r'.slots = r.slots := (congrArg Piece.slots h.rest :)
theorem filled (h : Changed r r') : r'.filled = r.filled := (congrArg Piece.filled h.rest :)
theorem offset (h : Changed r r') : r'.offset = r.offset := (congrArg Piece.offset h.rest :)
theorem count (h : Changed r r') : r'.count = r.count := (congrArg Piece.count h.rest :)
theorem port (h : Changed r r') : r'.port = r.port := (congrArg Piece.port h.rest :)

theorem trans (h : Changed r r') (k : Changed r' r'') : Changed r r'' := by
  refine ⟨?_, ?_, ?_⟩
  · obtain k | k := k.shadow
    · rw [k]; exact h.shadow
    · exact .inr k
  · obtain k | ⟨hk, k⟩ := k.owner
    · rw [k]; exact h.owner
    · exact .inr ⟨h.kind.symm.trans hk, k⟩
  · calc r'' = { r' with owner := r''.owner, shadow := r''.shadow } := k.rest
      _ = { r with owner := r''.owner, shadow := r''.shadow } := by rw [h.rest]

/-- A copy aside, the owner stays. -/
theorem owner_of_ne_cp (h : Changed r r') (hk : r.kind ≠ .cp) : r'.owner = r.owner :=
  h.owner.resolve_right fun x => hk x.1

theorem owner_of_tag (h : Changed r r') {t : Tag} (ho : r'.owner = .tag t) : r.owner = .tag t :=
  h.owner.elim (fun x => x ▸ ho) fun x => nomatch x.2.symm.trans ho

/-- A copy aside, a changed piece has lost its shadow part and nothing else. -/
theorem eq_or (h : Changed r r') (ho : r'.owner = r.owner) : r' = r ∨ r' = { r with shadow := none } := by
  have hrest := h.rest
  rw [ho] at hrest
  obtain hs | hs := h.shadow <;> rw [hs] at hrest
  · exact .inl hrest
  · exact .inr hrest

end Changed

/-- R32 to R36: the entry of a request that has gone on: pieces of it were done, its failure point was set or lowered,
and it may drain. -/
structure Later (e e' : Entry) : Prop where
  kind : e'.kind = e.kind
  state : e.state = .active ∨ e.state = .draining → e'.state = .active ∨ e'.state = .draining
  failure : ∀ f c, e.failure = some (f, c) → ∃ f' c', e'.failure = some (f', c') ∧ (e.kind ≠ .flush → f' ≤ f)
  done : ∀ i, i ∈ e.done → i ∈ e'.done
  waits : ∀ t, t ∈ e'.waitSet → t ∈ e.waitSet

namespace Later

theorem refl (e : Entry) : Later e e := ⟨rfl, id, fun f c h => ⟨f, c, h, fun _ => Nat.le_refl _⟩, fun _ h => h, fun _ h => h⟩

theorem trans {e e' e'' : Entry} (h : Later e e') (k : Later e' e'') : Later e e'' where
  kind := k.kind.trans h.kind
  state x := k.state (h.state x)
  failure f c x := by
    obtain ⟨f', c', hf, hle⟩ := h.failure f c x
    obtain ⟨f'', c'', hf', hle'⟩ := k.failure f' c' hf
    exact ⟨f'', c'', hf', fun hk => Nat.le_trans (hle' (h.kind ▸ hk)) (hle hk)⟩
  done i x := k.done i (h.done i x)
  waits t x := h.waits t (k.waits t x)

theorem resolved {e e' : Entry} (h : Later e e') (hr : Resolved e) : Resolved e' := ⟨h.kind ▸ hr.1, h.state hr.2⟩

theorem forget (t : Tag) (e : Entry) : Later e (forget t e) :=
  ⟨rfl, id, fun f c h => ⟨f, c, h, fun _ => Nat.le_refl _⟩, fun _ h => h, fun _ h => (List.mem_filter.mp h).1⟩

end Later

/-- R35, R41, R60, R65, R72, R176: between `u` and `w` pieces, grants and entries only went. The pieces that `S` names
may have been changed by an abort. -/
structure Core (S : PieceId → Prop) (u w : State) : Prop where
  shrinks : Shrinks u w
  freed : ∀ t, entryOf t u = none → entryOf t w = none
  cmpl : ∀ c b, .cmpl c b ∈ u.ulc.tx → .cmpl c b ∈ w.ulc.tx
  frames : ∀ j t n b, .readData j t n b ∈ w.ulc.tx → .readData j t n b ∈ u.ulc.tx
  withdrawn : ∀ (t : Tag) i, i ∈ u.ulc.withdrawn[t] → i ∈ w.ulc.withdrawn[t]
  grants : ∀ g ∈ u.ulc.grants, g ∉ w.ulc.grants → ∀ j q, g.target = .piece j → pieceOf j u = some q →
    ∀ i, i < g.count → i ∉ q.filled → g.first + i ∈ w.ulc.withdrawn[g.tag]
  pieces : ∀ j r', pieceOf j w = some r' → ∃ r, pieceOf j u = some r ∧ (r' = r ∨ S j ∧ Changed r r')
  gone : ∀ j r, pieceOf j u = some r → pieceOf j w = none →
    PieceGone j r w ∧ ∀ t n b, .readData j t n b ∉ w.ulc.tx
  entries : ∀ t e', entryOf t w = some e' → ∃ e, entryOf t u = some e ∧ Later e e'
  waits : ∀ j, j ∈ u.psc.waiting → (pieceOf j w).isSome → j ∈ w.psc.waiting

namespace Core

variable {S T : PieceId → Prop} {u v w : State}

theorem refl (S : PieceId → Prop) (u : State) : Core S u u where
  shrinks := .refl u
  freed _ h := h
  cmpl _ _ h := h
  frames _ _ _ _ h := h
  withdrawn _ _ h := h
  grants _ hg hn := absurd hg hn
  pieces _ r' h := ⟨r', h, .inl rfl⟩
  gone _ _ h h' := nomatch h.symm.trans h'
  entries _ e h := ⟨e, h, .refl e⟩
  waits _ h _ := h

theorem changed (h : Core S u w) {j : PieceId} {r' : Piece} (hj : pieceOf j w = some r') :
    ∃ r, pieceOf j u = some r ∧ Changed r r' := by
  obtain ⟨r, hr, rfl | ⟨-, hc⟩⟩ := h.pieces j r' hj
  · exact ⟨_, hr, .refl _⟩
  · exact ⟨r, hr, hc⟩

/-- What was there and is still there has only changed. -/
theorem changed_of (h : Core S u w) {j : PieceId} {r r' : Piece} (hr : pieceOf j u = some r)
    (hj : pieceOf j w = some r') : Changed r r' := by
  obtain ⟨r₀, hr₀, hc⟩ := h.changed hj
  exact Option.some.inj (hr.symm.trans hr₀) ▸ hc

/-- What is still there was there all the time. -/
theorem isSome (h : Core S u w) {j : PieceId} (hj : (pieceOf j w).isSome) : (pieceOf j u).isSome := by
  obtain ⟨r', hr'⟩ := Option.isSome_iff_exists.mp hj
  obtain ⟨r, hr, -⟩ := h.changed hr'
  exact Option.isSome_iff_exists.mpr ⟨r, hr⟩

theorem trans (h : Core S u v) (k : Core S v w) : Core S u w where
  shrinks := h.shrinks.trans k.shrinks
  freed t x := k.freed t (h.freed t x)
  cmpl c b x := k.cmpl c b (h.cmpl c b x)
  frames j t n b x := h.frames j t n b (k.frames j t n b x)
  withdrawn t i x := k.withdrawn t i (h.withdrawn t i x)
  grants g hg hn j q ht hq i hi hf := by
    by_cases hv : g ∈ v.ulc.grants
    · cases hj : pieceOf j v with
      | none => exact absurd ht ((h.gone j q hq hj).1.2.2.2.2 g hv)
      | some r => exact k.grants g hv hn j r ht hj i hi ((h.changed_of hq hj).filled ▸ hf)
    · exact k.withdrawn _ _ (h.grants g hg hv j q ht hq i hi hf)
  pieces j r'' x := by
    obtain ⟨r', hr', k⟩ := k.pieces j r'' x
    obtain ⟨r, hr, h⟩ := h.pieces j r' hr'
    refine ⟨r, hr, ?_⟩
    obtain rfl | ⟨hs, hc⟩ := h
    · exact k
    · obtain rfl | ⟨-, hc'⟩ := k
      · exact .inr ⟨hs, hc⟩
      · exact .inr ⟨hs, hc.trans hc'⟩
  gone j r hr hw := by
    cases hv : pieceOf j v with
    | none =>
      obtain ⟨hgone, hframes⟩ := h.gone j r hr hv
      exact ⟨hgone.shrinks k.shrinks, fun t n b x => hframes t n b (k.frames j t n b x)⟩
    | some r' =>
      obtain ⟨hgone, hframes⟩ := k.gone j r' hv hw
      exact ⟨hgone.of_slots (h.changed_of hr hv).slots, hframes⟩
  entries t e'' x := by
    obtain ⟨e', he', k⟩ := k.entries t e'' x
    obtain ⟨e, he, h⟩ := h.entries t e' he'
    exact ⟨e, he, h.trans k⟩
  waits j hj x := k.waits j (h.waits j hj (k.isSome x)) x

theorem mono (h : Core S u w) (hS : ∀ j, S j → T j) : Core T u w :=
  { h with pieces := fun j r' x => (h.pieces j r' x).imp fun _ y => ⟨y.1, y.2.imp_right fun z => ⟨hS j z.1, z.2⟩⟩ }

/-- Nothing named, nothing changed. -/
theorem widen (h : Core (fun _ => False) u w) : Core S u w := h.mono fun _ => False.elim

theorem foldl {α : Type} {f : State → α → State} (hf : ∀ s a, Core S s (f s a)) (l : List α) (s : State) :
    Core S s (l.foldl f s) := by
  induction l generalizing s with
  | nil => exact .refl S s
  | cons a l ih => exact (hf s a).trans (ih _)

/-- The operations on other parts of the state. -/
theorem of_eq (h1 : w.psc = u.psc) (h2 : w.spa.free = u.spa.free) (h3 : w.ulc = u.ulc)
    (h4 : w.rqt.entries = u.rqt.entries) : Core S u w := by
  have hp (j : PieceId) : pieceOf j w = pieceOf j u := by unfold pieceOf; rw [h1]
  have hq (p : PortId) : queueOf p w = queueOf p u := by unfold queueOf; rw [h1]
  have he (t : Tag) : entryOf t w = entryOf t u := by unfold entryOf; rw [h4]
  refine ⟨⟨fun j x => by rw [hp]; exact x, fun p j x => by rw [← hq]; exact x, fun j x => by rw [← h1]; exact x,
    fun k x => by rw [h2]; exact x, fun g x => by rw [← h3]; exact x, fun p j x => .inl (by rw [hq]; exact x)⟩,
    fun t x => by rw [he]; exact x, fun c b x => by rw [h3]; exact x, fun j t n b x => by rw [← h3]; exact x,
    fun t i x => by rw [h3]; exact x, fun g hg hn => absurd hg (by rw [← h3]; exact hn), fun j r' x => ?_,
    fun j r x y => ?_, fun t e x => ⟨e, by rw [← he]; exact x, .refl e⟩, fun j x _ => by rw [h1]; exact x⟩
  · exact ⟨r', by rw [← hp]; exact x, .inl rfl⟩
  · rw [hp, x] at y
    nomatch y

end Core

/-! ### The operations -/

theorem mem_handed {f : TxFrame} {s : State} (h : notGrant f = true) : f ∈ handed s ↔ f ∈ s.ulc.tx := by
  simp [handed, h]

/-- R65: the withdrawal of grants. -/
theorem Core.withdrawGrants (S : PieceId → Prop) (q : Grant → Bool) (s : State) : Core S s (withdrawGrants q s) := by
  have htx (f : TxFrame) (h : notGrant f = true) : f ∈ (Machine.withdrawGrants q s).ulc.tx ↔ f ∈ s.ulc.tx := by
    rw [← mem_handed h, ← mem_handed h, withdrawGrants_handed]
  have hentry (t : Tag) : entryOf t (Machine.withdrawGrants q s) = entryOf t s := by
    rw [withdrawGrants_ulc]
    rfl
  have hwait : (Machine.withdrawGrants q s).psc = s.psc := by
    rw [withdrawGrants_ulc]
    rfl
  refine ⟨.withdrawGrants q s, fun t x => (hentry t).trans x, fun c b => (htx _ rfl).mpr, fun j t n b => (htx _ rfl).mp,
    fun t i => withdrawGrants_mono, fun g hg hn j r ht hr i hi hf => ?_, fun j r x => ?_, fun j r x y => ?_,
    fun t e x => ⟨e, (hentry t).symm.trans x, .refl e⟩, fun j x _ => by rw [hwait]; exact x⟩
  · have hq : q g = true := by
      rw [withdrawGrants_grants, List.mem_filter, not_and] at hn
      simpa using hn hg
    refine withdrawGrants_joins hg hq hi ?_
    rw [filledOf, ht]
    simpa only [hr, Option.map_some, Option.getD_some] using hf
  · exact ⟨r, (withdrawGrants_pieceOf q s j).symm.trans x, .inl rfl⟩
  · rw [withdrawGrants_pieceOf, x] at y
    nomatch y

theorem forget_entryOf {t : Tag} {s w : State} (h1 : entryOf t w = none)
    (h2 : ∀ t', t' ≠ t → entryOf t' w = (entryOf t' s).map (forget t)) (t' : Tag) :
    (entryOf t' s = none → entryOf t' w = none) ∧
      ∀ e', entryOf t' w = some e' → ∃ e, entryOf t' s = some e ∧ Later e e' := by
  by_cases ht : t' = t
  · subst ht
    exact ⟨fun _ => h1, fun e' x => nomatch h1.symm.trans x⟩
  · rw [h2 t' ht]
    refine ⟨fun x => by rw [x]; rfl, fun e' x => ?_⟩
    obtain ⟨e, he, rfl⟩ := Option.map_eq_some_iff.mp x
    exact ⟨e, he, .forget t e⟩

/-- R41: a completion. -/
theorem Core.complete (S : PieceId → Prop) (t : Tag) (o : ReqOutcome) (c : Cause) (r d : Nat) (s : State) :
    Core S s (complete t o c r d s) := by
  obtain ⟨hh, he, hes, -, -, -, -, -, hg, hw, -⟩ := complete_answers t o c r d s
  have hentries := forget_entryOf he hes
  have hframe (j : PieceId) (t' : Tag) (n : Nat) (b : Block) :
      .readData j t' n b ∈ (Machine.complete t o c r d s).ulc.tx → .readData j t' n b ∈ s.ulc.tx := by
    rw [← mem_handed rfl, ← mem_handed (s := s) rfl, hh, List.mem_append]
    exact fun x => x.resolve_right (by simp)
  have hmono (t' : Tag) (i : Nat) : i ∈ s.ulc.withdrawn[t'] →
      i ∈ (Machine.complete t o c r d s).ulc.withdrawn[t'] := by
    rw [complete_ulc]
    exact fun x => withdrawGrants_mono (s := sendCmpl t o c r d s) x
  refine ⟨.complete t o c r d s, fun t' => (hentries t').1, fun x b hx => ?_, hframe, hmono,
    fun g hg' hn j q ht hq i hi hf => ?_, fun j q x => ⟨q, (complete_pieceOf ..).symm.trans x, .inl rfl⟩,
    fun j q x y => ?_, fun t' => (hentries t').2, fun j x _ => by rw [complete_psc]; exact x⟩
  · rw [← mem_handed rfl, hh, List.mem_append]
    exact .inl ((mem_handed rfl).mpr hx)
  · have htag : decide (g.tag = t) = true := by
      rw [hg, List.mem_filter, not_and] at hn
      simpa using hn hg'
    rw [complete_ulc]
    refine withdrawGrants_joins (s := sendCmpl t o c r d s) hg' htag hi ?_
    rw [filledOf, ht]
    have hpiece : pieceOf j (sendCmpl t o c r d s) = some q := hq
    simpa only [hpiece, Option.map_some, Option.getD_some] using hf
  · rw [complete_pieceOf, x] at y
    nomatch y

/-- R72: a piece leaves the part. -/
theorem Core.detachPiece (S : PieceId → Prop) (id : PieceId) (s : State) : Core S s (detachPiece id s) := by
  cases hq : pieceOf id s with
  | none => rw [detachPiece_none hq]; exact .refl S s
  | some q =>
    obtain ⟨x, y, hgrants, hframes, -, -, -, heq⟩ := detachPiece_eq hq
    have hulc : (Machine.detachPiece id s).ulc = x := by rw [heq]; rfl
    have hself : pieceOf id (Machine.detachPiece id s) = none := (detachPiece_gone hq).1
    have hkeeps := dropPiece_keeps 0 id s
    refine ⟨.detachPiece id s, fun t z => (detachPiece_entryOf id t s).trans z, fun c b z => ?_,
      fun j t n b z => ((detachPiece_frames (by rw [hq]; rfl)).mp z).1, fun t i z => ?_,
      fun g hg hn j r ht hr i hi hf => ?_, fun j r z => ?_, fun j r z z' => ?_,
      fun t e z => ⟨e, (detachPiece_entryOf id t s).symm.trans z, .refl e⟩, fun j z z' => ?_⟩
    · rw [hulc]
      have hmem : TxFrame.cmpl c b ∈ x.tx.filter notGrant := by
        rw [hframes, List.mem_filter]
        exact ⟨z, rfl⟩
      exact (List.mem_filter.mp hmem).1
    · rw [detachPiece_withdrawn hq]
      exact withdrawGrants_mono z
    · rw [hulc, hgrants, List.mem_filter, not_and] at hn
      rw [detachPiece_withdrawn hq]
      refine withdrawGrants_joins hg (by simpa using hn hg) hi ?_
      rw [filledOf, ht]
      simpa only [hr, Option.map_some, Option.getD_some] using hf
    · have hne : j ≠ id := by
        rintro rfl
        nomatch hself.symm.trans z
      exact ⟨r, (detachPiece_other hne s).symm.trans z, .inl rfl⟩
    · obtain rfl : j = id := by
        refine Classical.byContradiction fun hne => ?_
        rw [detachPiece_other hne, z] at z'
        nomatch z'
      refine ⟨detachPiece_gone z, fun t n b hm => ?_⟩
      exact ((detachPiece_frames (by rw [hq]; rfl)).mp hm).2 rfl
    · have hne : j ≠ id := by
        rintro rfl
        rw [hself] at z'
        nomatch z'
      rw [heq]
      exact List.mem_filter.mpr ⟨z, decide_eq_true hne⟩

end Sys2Proof.Machine
end

section
/-! SUPPORT. Every end of pieces, of requests and of a move is one of those (R39, R48, R72, R80, R81, R106, R110). -/

namespace Sys2Proof.Machine

/-! ### What ends leave of the move -/

/-- R96, R104, R105: the context of a move that has gone on through ends: pieces left its shadow set as they ended, and
tags its dual set as their requests completed. -/
structure MoveGoesOn (w : State) (m m' : Move) : Prop where
  body : m' = { m with dual := m'.dual, blocking := m'.blocking, shadows := m'.shadows, piece := m'.piece }
  shadows : ∀ j, j ∈ m'.shadows → j ∈ m.shadows
  keeps : ∀ j, j ∈ m.shadows → (pieceOf j w).isSome → j ∈ m'.shadows
  dual : ∀ t, t ∈ m.dual → t ∈ m'.dual ∨ entryOf t w = none

/-- Between `u` and `w` no move has started. -/
def MoveLeft (u w : State) : Prop := ∀ m', w.mve = some m' → ∃ m, u.mve = some m ∧ MoveGoesOn w m m'

/-- R111: between `u` and `w` a move has ended that the piece belonged to. -/
def Released (u w : State) (j : PieceId) : Prop :=
  ∃ m, u.mve = some m ∧ w.mve = none ∧ (j ∈ m.shadows ∨ j ∈ u.psc.waiting)

/-- Between `u` and `w` there were ends of pieces, of requests and of a move, and nothing else. -/
structure Ends (u w : State) : Prop where
  core : Core (Released u w) u w
  move : MoveLeft u w

theorem MoveLeft.of_eq {u w : State} (h : w.mve = u.mve) : MoveLeft u w := fun m' hm =>
  ⟨m', h ▸ hm, rfl, fun _ x => x, fun _ x _ => x, fun _ x => .inl x⟩

theorem MoveLeft.of_none {u w : State} (h : w.mve = none) : MoveLeft u w := fun _ hm => nomatch h.symm.trans hm

theorem MoveLeft.trans {S : PieceId → Prop} {u v w : State} (h : MoveLeft u v) (k : MoveLeft v w) (hc : Core S v w) :
    MoveLeft u w := by
  intro m'' hm''
  obtain ⟨m', hm', k⟩ := k m'' hm''
  obtain ⟨m, hm, h⟩ := h m' hm'
  refine ⟨m, hm, ?_, fun j x => h.shadows j (k.shadows j x), fun j x y => k.keeps j (h.keeps j x (hc.isSome y)) y,
    fun t x => ?_⟩
  · exact k.body.trans (by rw [h.body])
  · obtain x | x := h.dual t x
    · exact k.dual t x
    · exact .inr (hc.freed t x)

namespace Ends

variable {u v w : State}

theorem of_core (h : Core (fun _ => False) u w) (k : MoveLeft u w) : Ends u w := ⟨h.widen, k⟩

theorem refl (u : State) : Ends u u := .of_core (.refl _ u) (.of_eq rfl)

theorem trans (h : Ends u v) (k : Ends v w) : Ends u w := by
  refine ⟨(h.core.mono fun j => ?_).trans (k.core.mono fun j => ?_), h.move.trans k.move k.core⟩
  · rintro ⟨m, hm, hv, hj⟩
    refine ⟨m, hm, ?_, hj⟩
    cases hw : w.mve with
    | none => rfl
    | some m' =>
      obtain ⟨m₀, hm₀, -⟩ := k.move m' hw
      nomatch hv.symm.trans hm₀
  · rintro ⟨m', hm', hw, hj⟩
    obtain ⟨m, hm, hgoes⟩ := h.move m' hm'
    exact ⟨m, hm, hw, hj.imp (hgoes.shadows j) (h.core.shrinks.2.2.1 j)⟩

theorem foldl {α : Type} {f : State → α → State} (hf : ∀ s a, Ends s (f s a)) (l : List α) (s : State) :
    Ends s (l.foldl f s) := by
  induction l generalizing s with
  | nil => exact .refl s
  | cons a l ih => exact (hf s a).trans (ih _)

/-- The operations on other parts of the state. -/
theorem of_eq (h1 : w.psc = u.psc) (h2 : w.spa.free = u.spa.free) (h3 : w.ulc = u.ulc)
    (h4 : w.rqt.entries = u.rqt.entries) (h5 : w.mve = u.mve) : Ends u w := .of_core (.of_eq h1 h2 h3 h4) (.of_eq h5)

end Ends

/-! ### Requests -/

theorem Ends.complete (t : Tag) (o : ReqOutcome) (c : Cause) (r d : Nat) (s : State) :
    Ends s (complete t o c r d s) := by
  refine .of_core (.complete _ t o c r d s) fun m' hm' => ?_
  obtain ⟨-, he, -⟩ := complete_answers t o c r d s
  rw [complete_mve] at hm'
  obtain ⟨m, hm, rfl⟩ := Option.map_eq_some_iff.mp hm'
  refine ⟨m, hm, rfl, fun _ x => x, fun _ x _ => x, fun t' x => ?_⟩
  by_cases ht : t' = t
  · exact .inr (ht ▸ he)
  · exact .inl (List.mem_filter.mpr ⟨x, decide_eq_true ht⟩)

theorem Ends.setEntry {t : Tag} {e e' : Entry} {s : State} (h : entryOf t s = some e) (hl : Later e e') :
    Ends s (setEntry t (some e') s) := by
  refine .of_core ?_ (.of_eq rfl)
  have hbase : Core (fun _ => False) s s := .refl _ s
  refine { hbase with
    freed := fun t' x => ?_
    gone := fun j r x y => nomatch x.symm.trans y
    entries := fun t' e'' x => ?_ }
  · have hne : t' ≠ t := by
      rintro rfl
      nomatch h.symm.trans x
    rw [entryOf_setEntry_ne hne]
    exact x
  · by_cases ht : t' = t
    · subst ht
      rw [entryOf_setEntry_self] at x
      exact ⟨e, h, Option.some.inj x ▸ hl⟩
    · rw [entryOf_setEntry_ne ht] at x
      exact ⟨e'', x, .refl e''⟩

theorem Ends.modEntry {t : Tag} {f : Entry → Entry} (hf : ∀ e, Later e (f e)) (s : State) : Ends s (modEntry t f s) := by
  cases h : entryOf t s with
  | some e =>
    rw [Machine.modEntry, h]
    exact .setEntry h (hf e)
  | none =>
    have hsame : ∀ t', entryOf t' (Machine.modEntry t f s) = entryOf t' s := by
      intro t'
      by_cases ht : t' = t
      · subst ht
        rw [Machine.modEntry, entryOf_setEntry_self, h]
        rfl
      · exact entryOf_setEntry_ne ht _ s
    refine .of_core ?_ (.of_eq rfl)
    have hbase : Core (fun _ => False) s s := .refl _ s
    exact { hbase with
      freed := fun t' x => (hsame t').trans x
      gone := fun j r x y => nomatch x.symm.trans y
      entries := fun t' e' x => ⟨e', (hsame t').symm.trans x, .refl e'⟩ }

theorem Ends.completeData (t : Tag) (e : Entry) (s : State) : Ends s (completeData t e s) := by
  unfold Machine.completeData
  split
  · exact .complete ..
  · split <;> exact .complete ..

theorem Ends.completeFlush (t : Tag) (e : Entry) (s : State) : Ends s (completeFlush t e s) := by
  unfold Machine.completeFlush
  split
  · exact .complete ..
  · split <;> exact .complete ..

theorem Ends.tryComplete (t : Tag) (s : State) : Ends s (tryComplete t s) := by
  unfold Machine.tryComplete
  split
  · exact .refl s
  · next e he =>
    have hdata : Ends s (if e.notEnded = 0 ∧ !cuttable e then Machine.completeData t e s else s) := by
      split
      · exact .completeData t e s
      · exact .refl s
    have hflush : Ends s (if e.flPorts.all (fun q => q.2 ≠ .uncut ∧ q.2 ≠ .cut) then Machine.completeFlush t e s else s) := by
      split
      · exact .completeFlush t e s
      · exact .refl s
    split
    · split
      · exact hdata
      · split
        · exact hflush
        · exact .refl s
    · exact .refl s

theorem Ends.trimActive (t : Tag) (s : State) : Ends s (trimActive t s) := by
  unfold Machine.trimActive
  repeat' split
  all_goals exact .of_eq rfl rfl rfl rfl rfl

/-! ### Pieces -/

theorem Ends.detachPiece (id : PieceId) (s : State) : Ends s (detachPiece id s) := by
  refine .of_core (.detachPiece _ id s) ?_
  cases hq : pieceOf id s with
  | none => rw [detachPiece_none hq]; exact .of_eq rfl
  | some q =>
    intro m' hm'
    have hself := (detachPiece_gone hq).1
    obtain ⟨x, y, -, -, -, -, -, heq⟩ := detachPiece_eq hq
    have hmve : (Machine.detachPiece id s).mve = s.mve.map fun m => { m with
        shadows := leaveSet id m.shadows, piece := if m.piece = some id then none else m.piece } := by rw [heq]; rfl
    rw [hmve] at hm'
    obtain ⟨m, hm, rfl⟩ := Option.map_eq_some_iff.mp hm'
    refine ⟨m, hm, rfl, fun j x => (List.mem_filter.mp x).1, fun j x z => ?_, fun _ x => .inl x⟩
    have hne : j ≠ id := by
      rintro rfl
      rw [hself] at z
      nomatch z
    exact List.mem_filter.mpr ⟨x, decide_eq_true hne⟩

theorem later_onePieceLess (e : Entry) : Later e (onePieceLess e) := { Later.refl e with }

theorem later_markPort (p : PortId) (mark : FlMark) (e : Entry) : Later e (markPort p mark e) := { Later.refl e with }

theorem later_dropped (p : PortId) (e : Entry) :
    Later e (onePieceLess (if e.kind = .flush then markPort p .dropped e else e)) := by
  split
  · exact (later_markPort p .dropped e).trans (later_onePieceLess _)
  · exact later_onePieceLess e

theorem Ends.dropPiece (t : Tag) (id : PieceId) (s : State) : Ends s (dropPiece t id s) := by
  unfold Machine.dropPiece
  split
  · exact .refl s
  · exact (Ends.detachPiece id s).trans (.modEntry (later_dropped _) _)

theorem Ends.dropPieces (t : Tag) (q : Piece → Bool) (s : State) : Ends s (dropPieces t q s) :=
  .foldl (fun s id => .dropPiece t id s) _ s

theorem Ends.stopFlush (t : Tag) (s : State) : Ends s (stopFlush t s) := by
  have hlist (v : State) (l : List Tag) : Ends v (v.setRqt { v.rqt with flushing := l }) := .of_eq rfl rfl rfl rfl rfl
  have hdrop (e : Entry) : Later e {
      e with flPorts := e.flPorts.map fun q => if q.2 = .uncut then (q.1, .dropped) else q } := { Later.refl e with }
  exact (Ends.modEntry hdrop s).trans ((hlist _ _).trans (.dropPieces ..))

theorem later_failed {e : Entry} {f : Nat} {c : Cause} (h : e.kind = .flush ∨ lowersFailure e f = true) :
    Later e { e with failure := some (f, c), state := .draining } := by
  refine { Later.refl e with state := fun _ => .inr rfl, failure := fun f' c' hf => ⟨f, c, rfl, fun hk => ?_⟩ }
  obtain h | h := h
  · exact absurd h hk
  · simp only [lowersFailure, hf, decide_eq_true_iff] at h
    exact Nat.le_of_lt h

theorem later_done (e : Entry) (l : List Nat) : Later e { onePieceLess e with done := e.done ++ l } :=
  { Later.refl e with done := fun _ h => List.mem_append_left l h }

theorem Ends.dataOutcome {t : Tag} {e : Entry} {s : State} (h : entryOf t s = some e) (p : Piece) (o : PieceOutcome) :
    Ends s (dataOutcome t e p o s) := by
  cases o with
  | done => exact (Ends.setEntry h (later_done e _)).trans (.tryComplete ..)
  | dropped => exact (Ends.setEntry h (later_onePieceLess e)).trans (.tryComplete ..)
  | failed k c =>
    unfold Machine.dataOutcome
    dsimp only
    split
    · next hlow =>
      exact (Ends.setEntry h ((later_onePieceLess e).trans (later_failed (.inr hlow)))).trans
        ((Ends.dropPieces ..).trans ((Ends.trimActive ..).trans (.tryComplete ..)))
    · exact (Ends.setEntry h (later_onePieceLess e)).trans (.tryComplete ..)

theorem Ends.flushOutcome {t : Tag} {e : Entry} {s : State} (h : entryOf t s = some e) (hk : e.kind = .flush) (p : Piece)
    (o : PieceOutcome) : Ends s (flushOutcome t e p o s) := by
  have hmark (mark : FlMark) : Later e (markPort p.port mark (onePieceLess e)) :=
    (later_onePieceLess e).trans (later_markPort ..)
  cases o with
  | done => exact (Ends.setEntry h (hmark .done)).trans (.tryComplete ..)
  | dropped => exact (Ends.setEntry h (hmark .dropped)).trans (.tryComplete ..)
  | failed k c =>
    unfold Machine.flushOutcome
    dsimp only
    split
    · have hfails : Later e { markPort p.port .failed (onePieceLess e) with
          failure := some (p.port.val, c), state := .draining } :=
        (hmark .failed).trans (later_failed (.inl hk))
      exact (Ends.setEntry h hfails).trans ((Ends.stopFlush ..).trans (.tryComplete ..))
    · exact (Ends.setEntry h (hmark .failed)).trans (.tryComplete ..)

theorem Ends.requestOutcome (t : Tag) (p : Piece) (o : PieceOutcome) (s : State) : Ends s (requestOutcome t p o s) := by
  unfold Machine.requestOutcome
  split
  · exact .refl s
  · next e he =>
    split
    · next hk => exact .flushOutcome he hk p o
    · exact .dataOutcome he p o

theorem Ends.clearFaults (p : PortId) (s : State) : Ends s (clearFaults p s) := .of_eq rfl rfl rfl rfl rfl

end Sys2Proof.Machine
end

section
/-! SUPPORT. The ends of a piece, of a move, of a port's queue and of a port's service, as ends (R72, R80, R81, R103,
R105, R106, R110). -/

namespace Sys2Proof.Machine

/-! ### The end of a piece (R72) -/

/-- R72, R91: a piece is detached, and the fault count of the port on which it ended well is 0. -/
def leavesPart (id : PieceId) (a : Option PortId) (s : State) : State :=
  a.elim (detachPiece id s) fun p => clearFaults p (detachPiece id s)

theorem pieceEnds_none {id : PieceId} {s : State} (h : pieceOf id s = none) (o : PieceOutcome) (a : Option PortId) :
    pieceEnds id o a s = s := by
  simp only [pieceEnds, h]

theorem pieceEnds_tag {id : PieceId} {q : Piece} {t : Tag} {s : State} (h : pieceOf id s = some q)
    (ht : q.owner = .tag t) (o : PieceOutcome) (a : Option PortId) :
    pieceEnds id o a s = requestOutcome t q o (leavesPart id a s) := by
  cases a <;> simp only [pieceEnds, h, ht] <;> rfl

theorem pieceEnds_other {id : PieceId} {q : Piece} {s : State} (h : pieceOf id s = some q)
    (ht : ∀ t, q.owner ≠ .tag t) (o : PieceOutcome) (a : Option PortId) :
    pieceEnds id o a s = leavesPart id a s := by
  cases ho : q.owner with
  | tag t => exact absurd ho (ht t)
  | move => cases a <;> simp only [pieceEnds, h, ho] <;> rfl
  | discard => cases a <;> simp only [pieceEnds, h, ho] <;> rfl

theorem Ends.leavesPart (id : PieceId) (a : Option PortId) (s : State) : Ends s (leavesPart id a s) := by
  cases a with
  | none => exact .detachPiece id s
  | some p => exact (Ends.detachPiece id s).trans (.clearFaults p _)

theorem Ends.pieceEnds (id : PieceId) (o : PieceOutcome) (a : Option PortId) (s : State) :
    Ends s (pieceEnds id o a s) := by
  cases h : pieceOf id s with
  | none => rw [pieceEnds_none h]; exact .refl s
  | some q =>
    by_cases ht : ∃ t, q.owner = .tag t
    · obtain ⟨t, ht⟩ := ht
      rw [pieceEnds_tag h ht]
      exact (Ends.leavesPart id a s).trans (.requestOutcome t q o _)
    · rw [pieceEnds_other h fun t x => ht ⟨t, x⟩]
      exact .leavesPart id a s

/-- A piece that ends may be written once more before: its slots and its filled set are those that it leaves. -/
theorem Ends.of_modPiece {id : PieceId} {f : Piece → Piece} {u w : State} (h : Ends (modPiece id f u) w)
    (hgone : pieceOf id w = none) (hf : ∀ q, (f q).slots = q.slots ∧ (f q).filled = q.filled) : Ends u w := by
  have hother {j : PieceId} (hj : j ≠ id) : pieceOf j (modPiece id f u) = pieceOf j u := pieceOf_setPiece_ne hj _ u
  have hself : pieceOf id (modPiece id f u) = (pieceOf id u).map f := pieceOf_setPiece_self ..
  have hwaiting : (modPiece id f u).psc.waiting = u.psc.waiting := rfl
  obtain ⟨hc, hm⟩ := h
  refine ⟨{
    shrinks := (Shrinks.modPiece id f u).trans hc.shrinks
    freed := hc.freed, cmpl := hc.cmpl, frames := hc.frames, withdrawn := hc.withdrawn
    grants := fun g hg hn j q ht hq i hi hf' => ?_
    pieces := fun j r' x => ?_
    gone := fun j r x y => ?_
    entries := hc.entries, waits := hc.waits }, hm⟩
  · by_cases hj : j = id
    · subst hj
      exact hc.grants g hg hn j (f q) ht (by rw [hself, hq]; rfl) i hi ((hf q).2 ▸ hf')
    · exact hc.grants g hg hn j q ht ((hother hj).trans hq) i hi hf'
  · have hj : j ≠ id := by
      rintro rfl
      nomatch hgone.symm.trans x
    obtain ⟨r, hr, hcase⟩ := hc.pieces j r' x
    exact ⟨r, (hother hj).symm.trans hr, hcase⟩
  · by_cases hj : j = id
    · subst hj
      obtain ⟨hg, hframes⟩ := hc.gone j (f r) (by rw [hself, x]; rfl) y
      exact ⟨hg.of_slots (hf r).1, hframes⟩
    · exact hc.gone j r ((hother hj).trans x) y

/-! ### The abort of a move (R110, R111) -/

/-- R111: a change of one piece that is still there. -/
theorem Core.modPiece {S : PieceId → Prop} {id : PieceId} {f : Piece → Piece} {s : State} (hS : S id)
    (hf : ∀ q, pieceOf id s = some q → Changed q (f q)) : Core S s (modPiece id f s) := by
  have hother {j : PieceId} (hj : j ≠ id) : pieceOf j (Machine.modPiece id f s) = pieceOf j s :=
    pieceOf_setPiece_ne hj _ s
  have hself : pieceOf id (Machine.modPiece id f s) = (pieceOf id s).map f := pieceOf_setPiece_self ..
  have hbase : Core S s s := .refl S s
  refine { hbase with
    shrinks := .modPiece id f s
    pieces := fun j r' x => ?_
    gone := fun j r x y => ?_
    waits := fun _ x _ => x }
  · by_cases hj : j = id
    · subst hj
      rw [hself] at x
      obtain ⟨r, hr, rfl⟩ := Option.map_eq_some_iff.mp x
      exact ⟨r, hr, .inr ⟨hS, hf r hr⟩⟩
    · exact ⟨r', (hother hj).symm.trans x, .inl rfl⟩
  · by_cases hj : j = id
    · subst hj
      rw [hself, x] at y
      nomatch y
    · rw [hother hj, x] at y
      nomatch y

/-- With no move an end changes no piece. -/
theorem Ends.core_of_none {S : PieceId → Prop} {u w : State} (h : Ends u w) (hm : u.mve = none) : Core S u w :=
  h.core.mono fun _ ⟨_, hs, _⟩ => nomatch hm.symm.trans hs

theorem Ends.mve_none {u w : State} (h : Ends u w) (hm : u.mve = none) : w.mve = none := by
  cases hw : w.mve with
  | none => rfl
  | some m =>
    obtain ⟨m', hm', -⟩ := h.move m hw
    nomatch hm.symm.trans hm'

/-- R111: an abort acts on one piece. -/
theorem Core.abortPiece {S : PieceId → Prop} {id : PieceId} {s : State} (hS : S id) (hm : s.mve = none) :
    Core S s (abortPiece id s) ∧ (abortPiece id s).mve = none := by
  unfold Machine.abortPiece
  split
  · exact ⟨.refl S s, hm⟩
  · next q hq =>
    have hpiece {q' : Piece} (h : pieceOf id s = some q') : q' = q := Option.some.inj (h.symm.trans hq)
    split
    · next hk =>
      split
      · exact ⟨(Ends.detachPiece id s).core_of_none hm, (Ends.detachPiece id s).mve_none hm⟩
      · exact ⟨.modPiece hS fun q' h => ⟨.inl rfl, .inr ⟨hpiece h ▸ hk, rfl⟩, rfl⟩, hm⟩
      · exact ⟨.modPiece hS fun q' h => ⟨.inr rfl, .inr ⟨hpiece h ▸ hk, rfl⟩, rfl⟩, hm⟩
    · split
      · exact ⟨.refl S s, hm⟩
      · exact ⟨(Ends.pieceEnds id .done none s).core_of_none hm, (Ends.pieceEnds id .done none s).mve_none hm⟩
      · exact ⟨.modPiece hS fun q' _ => ⟨.inr rfl, .inl rfl, rfl⟩, hm⟩

theorem Core.abortPieces {S : PieceId → Prop} (l : List PieceId) (hS : ∀ j ∈ l, S j) {s : State} (hm : s.mve = none) :
    Core S s (l.foldl (fun s id => Machine.abortPiece id s) s) ∧
      (l.foldl (fun s id => Machine.abortPiece id s) s).mve = none := by
  induction l generalizing s with
  | nil => exact ⟨.refl S s, hm⟩
  | cons j l ih =>
    obtain ⟨h1, h2⟩ := Core.abortPiece (hS j (List.mem_cons_self ..)) hm
    obtain ⟨h3, h4⟩ := ih (fun i hi => hS i (List.mem_cons_of_mem j hi)) h2
    exact ⟨h1.trans h3, h4⟩

/-- R110: the pieces on which an abort of `m` acts, in their order (log 7). -/
def abortedPieces (m : Move) (s : State) : List PieceId :=
  s.psc.waiting ++ m.shadows.filter (· ∉ s.psc.waiting)

/-- R110: the part with its move over and its map NORMAL, before the pieces of the move are released. -/
def moveOver (s : State) : State := (s.setXmp { s.xmp with active := settleMap s.xmp.active }).setMve none

/-- R110, R111: the move is over and its pieces are released. -/
def moveReleased (m : Move) (s : State) : State :=
  (abortedPieces m s).foldl (fun s id => abortPiece id s) (moveOver s)

theorem abortMove_eq {s : State} {m : Move} (h : s.mve = some m) (o : ReqOutcome) (c : Cause) (d : Nat) (report : Bool) :
    abortMove o c d report s = if report then complete m.tag o c 0 d (moveReleased m s) else moveReleased m s := by
  simp only [abortMove, h]
  rfl

theorem mem_abortedPieces {m : Move} {s : State} {j : PieceId} :
    j ∈ abortedPieces m s ↔ j ∈ m.shadows ∨ j ∈ s.psc.waiting := by
  by_cases h : j ∈ s.psc.waiting <;> simp [abortedPieces, h]

theorem Ends.moveReleased {s : State} {m : Move} (h : s.mve = some m) : Ends s (moveReleased m s) := by
  obtain ⟨hc, hm⟩ := Core.abortPieces (S := (· ∈ abortedPieces m s)) (abortedPieces m s) (fun _ => id)
    (s := moveOver s) rfl
  have hover : Core (· ∈ abortedPieces m s) s (moveOver s) := .of_eq rfl rfl rfl rfl
  exact ⟨(hover.trans hc).mono fun j hj => ⟨m, h, hm, mem_abortedPieces.mp hj⟩, .of_none hm⟩

theorem Ends.abortMove (o : ReqOutcome) (c : Cause) (d : Nat) (report : Bool) (s : State) :
    Ends s (abortMove o c d report s) := by
  cases h : s.mve with
  | none => rw [abortMove_idle h]; exact .refl s
  | some m =>
    rw [abortMove_eq h]
    split
    · exact (Ends.moveReleased h).trans (.complete ..)
    · exact .moveReleased h

theorem Ends.portExitAborts (p : PortId) (c : Cause) (s : State) : Ends s (portExitAborts p c s) := by
  unfold Machine.portExitAborts
  split
  · exact .refl s
  · split
    · exact .abortMove ..
    · exact .refl s

theorem Ends.abortAt (lba : Option Nat) (c : Cause) (s : State) : Ends s (abortAt lba c s) := by
  cases lba with
  | none => exact .refl s
  | some d => exact .abortMove ..

/-! ### Failing pieces (R80, R103, R105) -/

/-- R72: a piece that has failed ends. -/
def failedEnd (id : PieceId) (k : Nat) (c : Cause) (s : State) : State :=
  pieceEnds id (.failed k c) none (modPiece id (fun p => { p with failure := some (k, c) }) s)

theorem failedEnd_gone (id : PieceId) (k : Nat) (c : Cause) (s : State) : pieceOf id (failedEnd id k c s) = none := by
  unfold failedEnd
  cases h : pieceOf id s with
  | none =>
    have hnone : pieceOf id (modPiece id (fun p => { p with failure := some (k, c) }) s) = none := by
      rw [modPiece, pieceOf_setPiece_self, h]
      rfl
    rw [pieceEnds_none hnone]
    exact hnone
  | some q =>
    have hsome : pieceOf id (modPiece id (fun p => { p with failure := some (k, c) }) s) =
        some { q with failure := some (k, c) } := by
      rw [modPiece, pieceOf_setPiece_self, h]
      rfl
    exact (pieceEnds_gone hsome ..).1

theorem Ends.failedEnd (id : PieceId) (k : Nat) (c : Cause) (s : State) : Ends s (failedEnd id k c s) :=
  .of_modPiece (.pieceEnds ..) (failedEnd_gone id k c s) fun _ => ⟨rfl, rfl⟩

/-- R103, R105: the LBA that the failure of a piece at index `k` aborts the move with, if it is one of the move's. -/
def abortLba (id : PieceId) (q : Piece) (k : Nat) (s : State) : Option Nat :=
  if q.state = .shadow ∨ q.owner = .move then moveFailure id q k s else none

/-- R70, R72: the end of a piece that fails in the phase that it is in. -/
def failsEnd (id : PieceId) (q : Piece) (k : Nat) (c : Cause) (s : State) : State :=
  if q.state = .shadow ∧ q.kind ≠ .cp then pieceEnds id .done none s else failedEnd id k c s

theorem pieceFails_none {id : PieceId} {s : State} (h : pieceOf id s = none) (k : Nat) (c : Cause) :
    pieceFails id k c s = s := by
  simp only [pieceFails, h]

/-- R80: a piece fails: its end, and the abort of its move. -/
theorem pieceFails_eq {id : PieceId} {q : Piece} {s : State} (h : pieceOf id s = some q) (k : Nat) (c : Cause) :
    pieceFails id k c s = abortAt (abortLba id q k s) c (failsEnd id q k c s) := by
  by_cases hs : q.state = .shadow
  · by_cases hk : q.kind = .cp
    · simp only [pieceFails, h, hs, if_true, destFails, hk, abortLba, failsEnd, true_or, ne_eq, not_true_eq_false,
        and_false, if_false]
      rfl
    · simp only [pieceFails, h, hs, if_true, destFails, hk, abortLba, failsEnd, true_or, ne_eq, not_false_eq_true,
        and_self, if_false]
  · by_cases ho : q.owner = .move
    · simp only [pieceFails, h, hs, if_false, sourceFails, ho, abortLba, failsEnd, false_or, if_true, false_and]
      rfl
    · simp only [pieceFails, h, hs, if_false, sourceFails, ho, abortLba, failsEnd, false_or, false_and]
      rfl

/-- R72, R103: a piece fails in its source phase. -/
theorem sourceFails_eq {id : PieceId} {q : Piece} {s : State} (h : pieceOf id s = some q) (k : Nat) (c : Cause) :
    sourceFails id k c s =
      abortAt (if q.owner = .move then moveFailure id q k s else none) c (failedEnd id k c s) := by
  simp only [sourceFails, h]
  rfl

theorem Ends.failsEnd (id : PieceId) (q : Piece) (k : Nat) (c : Cause) (s : State) : Ends s (failsEnd id q k c s) := by
  unfold Machine.failsEnd
  split
  · exact .pieceEnds ..
  · exact .failedEnd ..

theorem Ends.pieceFails (id : PieceId) (k : Nat) (c : Cause) (s : State) : Ends s (pieceFails id k c s) := by
  cases h : pieceOf id s with
  | none => rw [pieceFails_none h]; exact .refl s
  | some q =>
    rw [pieceFails_eq h]
    exact (Ends.failsEnd ..).trans (.abortAt ..)

theorem Ends.sourceFails (id : PieceId) (k : Nat) (c : Cause) (s : State) : Ends s (sourceFails id k c s) := by
  cases h : pieceOf id s with
  | none =>
    simp only [Machine.sourceFails, h]
    exact .refl s
  | some q =>
    rw [sourceFails_eq h]
    exact (Ends.failedEnd ..).trans (.abortAt ..)

/-! ### The exit of a port (R80 to R82, R93, R106) -/

/-- R80: one place of a port's queue fails. -/
def failPlace (p : PortId) (c : Cause) (s : State) (id : PieceId) : State :=
  if id ∈ queueOf p s then pieceFails id 0 c s else s

theorem failQueue_eq (p : PortId) (c : Cause) (s : State) : failQueue p c s = (queueOf p s).foldl (failPlace p c) s := rfl

theorem Ends.failPlace (p : PortId) (c : Cause) (s : State) (id : PieceId) : Ends s (failPlace p c s id) := by
  unfold Machine.failPlace
  split
  · exact .pieceFails ..
  · exact .refl s

theorem Ends.failQueue (p : PortId) (c : Cause) (s : State) : Ends s (failQueue p c s) :=
  .foldl (Ends.failPlace p c) _ s

theorem Ends.withdrawClaim (p : PortId) (s : State) : Ends s (withdrawClaim p s) := .of_eq rfl rfl rfl rfl rfl

theorem Ends.setFlag (f : ChangeFlag) (s : State) : Ends s (setFlag f s) := .of_eq rfl rfl rfl rfl rfl

theorem Ends.modPort (p : PortId) (f : Port → Port) (s : State) : Ends s (modPort p f s) := .of_eq rfl rfl rfl rfl rfl

theorem Ends.reportExit (old : PortState) (p : PortId) (c : Cause) (s : State) : Ends s (reportExit old p c s) := by
  unfold Machine.reportExit
  split
  · exact .portExitAborts ..
  · exact .refl s

theorem Ends.setMgu (x : Mgu) (s : State) : Ends s (s.setMgu x) := .of_eq rfl rfl rfl rfl rfl

theorem Ends.endPending (p : PortId) (x : OfflinePending) (s : State) : Ends s (endPending p x s) := by
  unfold Machine.endPending
  split
  · exact (Ends.setMgu _ s).trans (Ends.complete ..)
  · exact .refl s
  · exact .refl s

/-- R80, R81: the part as the queue of a port that leaves service starts to fail: PORT is set, the port has its new
state, and its claim is withdrawn. -/
def exitStarts (p : PortId) (f : Port → Port) (s : State) : State :=
  withdrawClaim p (modPort p f (setFlag .port s))

theorem Ends.exitStarts (p : PortId) (f : Port → Port) (s : State) : Ends s (exitStarts p f s) := by
  unfold Machine.exitStarts
  exact (Ends.setFlag .port s).trans ((Ends.modPort p f _).trans (.withdrawClaim p _))

theorem enterDown_eq (p : PortId) (s : State) : enterDown p s = reportExit (portOf p s).state p .portDown
    (failQueue p .portDown (exitStarts p (fun x => { quietPort .down x with mrst := false }) s)) := rfl

theorem enterOffline_eq (p : PortId) (c : Cause) (s : State) : enterOffline p c s =
    endPending p (portOf p s).offlinePending (reportExit (portOf p s).state p .portOffline
      (failQueue p c (exitStarts p (fun x => { quietPort .offline x with mrst := true, offlinePending := .no }) s))) := rfl

theorem Ends.enterDown (p : PortId) (s : State) : Ends s (enterDown p s) := by
  rw [enterDown_eq]
  exact (Ends.exitStarts ..).trans ((Ends.failQueue ..).trans (.reportExit ..))

theorem Ends.enterOffline (p : PortId) (c : Cause) (s : State) : Ends s (enterOffline p c s) := by
  rw [enterOffline_eq]
  exact (Ends.exitStarts ..).trans ((Ends.failQueue ..).trans ((Ends.reportExit ..).trans (.endPending ..)))

/-- R106: the extent of the move at its destination, before the MOVE is answered. -/
def switched (m : Move) (s : State) : State :=
  (s.setXmp { s.xmp with active := mapVec (switchExtent m) s.xmp.active, generation := s.xmp.generation + 1 }).setMve none

/-- R106: the switch is an end of the move that changes no piece. -/
theorem Ends.switchMove (m : Move) (s : State) : Ends s (switchMove m s) := by
  refine Ends.trans (v := switched m s) (.of_core (.of_eq rfl rfl rfl rfl) (.of_none rfl)) ?_
  exact .complete m.tag .good .none 0 0 (switched m s)

theorem Ends.takeSwitch (s : State) : Ends s (takeSwitch s) := by
  obtain ⟨m, -, -, h⟩ | ⟨h, -⟩ := takeSwitch_eq s <;> rw [h]
  · exact .switchMove m s
  · exact .refl s

end Sys2Proof.Machine
end

section
/-! SUPPORT. A state in which a copy piece is owned by a request: the failure of its queue does not drop that piece (R35,
R111), and the statements on ports that leave service fail there. -/

namespace Sys2Proof.Machine

/-- A part with no step due takes an event as it stands. -/
theorem standsAt_quiet {s : State} (h : running s = true) (hd : dueStep s = none) : StandsAt s s :=
  ⟨h, by simp [settle, stepBound, drain, hd]⟩

/-- The part after a command. -/
def afterCommand (c : Instr) (s : State) : State :=
  match exec c s with
  | .next t => t
  | _ => s

theorem afterCommand_of_next {c : Instr} {s t : State} (h : exec c s = .next t) : afterCommand c s = t := by
  unfold afterCommand
  rw [h]

/-- R59: the records that are in use stay in use as the heads are taken. -/
theorem finish_isSome (j : PieceId) (s : State) : (pieceOf j (finish s)).isSome = (pieceOf j s).isSome := by
  obtain ⟨-, -, -, -, -, -, -, -, -, -, -, -, -, -, hpieces, -⟩ := finishFootprint s
  have h := congrArg Option.isSome (hpieces j)
  rwa [Option.isSome_map, Option.isSome_map] at h

theorem finish_entryOf (t : Tag) (s : State) : entryOf t (finish s) = entryOf t s := by
  obtain ⟨-, -, -, hrqt, -⟩ := finishFootprint s
  unfold entryOf
  rw [hrqt]

/-! ### The state -/

/-- A copy piece of the move, whose failure aborts it. -/
def movePiece : Piece := ⟨.move, .cp, 0, 0, 1, 0, false, [], .atMedia, [], some ⟨1, 0, false, .pending⟩, none⟩

/-- A read piece that is queued. -/
def queuedRead : Piece := ⟨.tag 0, .rd, 0, 0, 1, 0, false, [], .queued, [], none, none⟩

/-- A copy piece that the request owns, in a state in which draining drops it, and which the move has in its shadow set. -/
def ownedCopy : Piece := ⟨.tag 0, .cp, 2, 0, 1, 0, false, [], .filling, [], some ⟨1, 0, false, .pending⟩, none⟩

/-- A flush piece whose owner is gone. -/
def lostFlush : Piece := ⟨.discard, .fl, 0, 0, 1, 0, false, [], .atMedia, [], none, none⟩

/-- The request that owns them. -/
def readEntry : Entry := ⟨.active, 0, .read, 0, 3, 0, 0, 0, [], 0, 0, 3, [], none, false, [], []⟩

/-- The move. -/
def copyingMove : Move := ⟨false, 5, 0, 0, 8, 0, 0, 1, 0, false, 0, none, none, [], [], [0, 2]⟩

/-- A part whose port 0 is as given, with a queue that begins as given and goes on with a piece of the move and a read. -/
def mixed (x : Port) (first : List PieceId) : State :=
  { State.reset with
    pins := ⟨true, false, true, false, Vector.replicate 4 true⟩
    rqt := ⟨(Vector.replicate 16 none).set 0 (some readEntry), [], [], [], [], []⟩
    psc := ⟨(((Vector.replicate 48 none).set 0 (some movePiece)).set 1 (some queuedRead)).set 2 (some ownedCopy)
      |>.set 3 (some lostFlush), (Vector.replicate 4 []).set 0 (first ++ [0, 1]), []⟩
    ports := (Vector.replicate 4 Port.reset).set 0 x
    mve := some copyingMove
    mst := { State.reset.mst with reading := false }
    svm := { State.reset.svm with partState := .bare } }

/-- The read fails as its queue does, and the request does not drop its copy: the abort has taken it first. -/
structure Spoils (c : Instr) (s : State) : Prop where
  running : running s = true
  quiet : dueStep s = none
  kept : (pieceOf 2 (afterCommand c s)).isSome = true
  held : (entryOf 0 (afterCommand c s)).isSome = true

/-- Where the queue fails as stated, a request that goes on has dropped its copy. -/
theorem QueueFails.drops_copy {c : Cause} {piece : PieceId → Prop} {tag : Tag → Prop} {u w : State}
    (h : QueueFails 0 c piece tag u w) (hid : piece 1) (ht : tag 0) (hq : 1 ∈ queueOf 0 u) (hw : u.psc.waiting = [])
    (h1 : pieceOf 1 u = some queuedRead) (h2 : pieceOf 2 u = some ownedCopy) (he : entryOf 0 u = some readEntry)
    (hheld : (entryOf 0 w).isSome = true) : pieceOf 2 w = none := by
  obtain ⟨-, -, hreq⟩ := h 1 queuedRead hq h1 hid
  obtain ⟨hres, -⟩ := hreq 0 readEntry rfl (by decide) (by decide) (by rw [hw]; decide) ht he
  obtain ⟨e', he'⟩ := Option.isSome_iff_exists.mp hheld
  obtain ⟨-, hdropped⟩ := (hres ⟨rfl, .inl rfl⟩ e' he').1 (by decide)
  exact (hdropped 2 ownedCopy (by decide) (by rw [hw]; decide) h2 rfl (by decide)).1.1

/-- So a queue that fails as stated is refuted by the part that the model evaluates to. -/
theorem Spoils.not_queueFails {c : Instr} {s w u : State} {cause : Cause} {piece : PieceId → Prop} {tag : Tag → Prop}
    (h : Spoils c s) (hexec : exec c s = .next (finish w)) (hid : piece 1) (ht : tag 0) (hq : 1 ∈ queueOf 0 u)
    (hw : u.psc.waiting = []) (h1 : pieceOf 1 u = some queuedRead) (h2 : pieceOf 2 u = some ownedCopy)
    (he : entryOf 0 u = some readEntry) : ¬QueueFails 0 cause piece tag u w := by
  intro hfails
  have hafter : afterCommand c s = finish w := afterCommand_of_next hexec
  have hheld : (entryOf 0 w).isSome = true := by
    rw [← finish_entryOf, ← hafter]
    exact h.held
  have hkept : (pieceOf 2 w).isSome = true := by
    rw [← finish_isSome, ← hafter]
    exact h.kept
  rw [hfails.drops_copy hid ht hq hw h1 h2 he hheld] at hkept
  exact absurd hkept (by decide)

/-! ### PORT OFFLINE (R92 to R94) -/

/-- A port that is READY with no command outstanding. -/
def readyPort : Port := ⟨.ready, 0, 1000, none, [], none, false, .no, false⟩

theorem spoils_portOffline : Spoils (.portOffline 7 7 0) (mixed readyPort []) :=
  ⟨by decide +kernel, by decide +kernel, by decide +kernel, by decide +kernel⟩

/-- Refutes O22: the port is READY, and a copy that the request owns stays as the queue fails. -/
theorem not_portOfflineTaken : ¬ Obligations.PortOfflineTaken := by
  intro h
  have hs := spoils_portOffline
  obtain ⟨-, hport⟩ := h _ _ 7 0 (standsAt_quiet hs.running hs.quiet) (by unfold TakenAtOnce; decide +kernel)
  obtain ⟨-, -, hexit⟩ := hport 0 rfl
  obtain ⟨w, hexec, -, -, hfails, -⟩ := hexit (by decide +kernel) (by decide +kernel)
  exact hs.not_queueFails hexec trivial trivial (by decide +kernel) rfl rfl rfl rfl hfails

/-! ### The lines (R80) -/

theorem spoils_presentnReleased : Spoils (.presentnReleased 0) (mixed readyPort []) :=
  ⟨by decide +kernel, by decide +kernel, by decide +kernel, by decide +kernel⟩

theorem setPins_traffic (j : PieceId) (t : Tag) (x : Pins) (s : State) :
    pieceOf j (s.setPins x) = pieceOf j s ∧ entryOf t (s.setPins x) = entryOf t s := ⟨rfl, rfl⟩

/-- R79: a level of the line is no part of the traffic. -/
theorem afterCommand_level {c : Instr} {s w : State} {l : Vector Bool 4}
    (h : exec c s = .next ((finish w).setPins { (finish w).pins with presentLow := l })) :
    (pieceOf 2 w).isSome = (pieceOf 2 (afterCommand c s)).isSome ∧
      (entryOf 0 w).isSome = (entryOf 0 (afterCommand c s)).isSome := by
  obtain ⟨hpiece, hentry⟩ := setPins_traffic 2 0 { (finish w).pins with presentLow := l } (finish w)
  rw [afterCommand_of_next h, ← finish_isSome, ← finish_entryOf, hpiece, hentry]
  exact ⟨rfl, rfl⟩

/-- Refutes O36: the unit of a READY port is gone, and a copy that the request owns stays as the queue fails. -/
theorem not_presenceChanges : ¬ Obligations.PresenceChanges := by
  intro h
  have hs := spoils_presentnReleased
  obtain ⟨-, -, -, hgone⟩ := h _ _ 0 (standsAt_quiet hs.running hs.quiet)
  obtain ⟨-, hexit, -⟩ := hgone (by decide +kernel)
  obtain ⟨w, hexec, -, -, hfails, -⟩ := hexit (by decide +kernel) (by decide +kernel) (by decide +kernel)
  obtain ⟨hkept, hheld⟩ := afterCommand_level hexec
  rw [hs.kept] at hkept
  rw [hs.held] at hheld
  rw [hfails.drops_copy trivial trivial (by decide +kernel) rfl rfl rfl rfl hheld] at hkept
  exact absurd hkept (by decide)

/-! ### Faults (R85, R88, R89) -/

/-- A READY port at its last fault but one, with the command of its head outstanding. -/
def faultyPort : Port := ⟨.ready, 3, 1000, some (.piece 0 .rd false), [], some 2000, false, .no, false⟩

theorem spoils_pieceTimerExpiry : Spoils (.pieceTimerExpiry 0) (mixed faultyPort []) :=
  ⟨by decide +kernel, by decide +kernel, by decide +kernel, by decide +kernel⟩

/-- Refutes O39: the fourth fault is that of the copy at media, and a copy that the request owns stays as the queue
fails. -/
theorem not_mediaFault : ¬ Obligations.MediaFault := by
  intro h
  have hs := spoils_pieceTimerExpiry
  obtain ⟨-, -, hfault⟩ := h _ _ (.pieceTimerExpiry 0) 0 (standsAt_quiet hs.running hs.quiet)
  obtain ⟨w, hexec, -, -, hexit, -⟩ := hfault 0 .rd false movePiece rfl rfl rfl (.inl ⟨rfl, rfl⟩)
  obtain ⟨-, -, hfails⟩ := hexit (by decide +kernel)
  exact hs.not_queueFails hexec trivial (by decide) (by decide +kernel) rfl rfl rfl rfl hfails

/-- A port at its last fault but one, with its probe outstanding. -/
def probedPort : Port := ⟨.recovering, 3, 1000, some .inquiry, [], none, true, .no, false⟩

theorem spoils_probeTimerExpiry : Spoils (.probeTimerExpiry 0) (mixed probedPort []) :=
  ⟨by decide +kernel, by decide +kernel, by decide +kernel, by decide +kernel⟩

/-- Refutes O40: the fourth fault is that of a probe, and a copy that the request owns stays as the queue fails. -/
theorem not_probeEnds : ¬ Obligations.ProbeEnds := by
  intro h
  have hs := spoils_probeTimerExpiry
  obtain ⟨hprobe, -⟩ := h _ _ (.probeTimerExpiry 0) 0 0 (standsAt_quiet hs.running hs.quiet)
  obtain ⟨-, hexit⟩ := hprobe (.inl ⟨rfl, rfl⟩)
  obtain ⟨w, hexec, -, hfails, -⟩ := hexit (by decide +kernel)
  exact hs.not_queueFails hexec trivial trivial (by decide +kernel) rfl rfl rfl rfl hfails

/-! ### Statuses with offline pending (R93) -/

/-- A READY port with offline pending and a flush without an owner at media. -/
def pendingFlush : Port := ⟨.ready, 0, 1000, some (.piece 3 .fl false), [], some 2000, false, .yes none, false⟩

theorem spoils_mediaStsOk : Spoils (.mediaStsOk 0 true) (mixed pendingFlush [3]) :=
  ⟨by decide +kernel, by decide +kernel, by decide +kernel, by decide +kernel⟩

/-- Refutes O42: with offline pending a good status takes the port OFFLINE, and a copy that the request owns stays as the
queue fails. -/
theorem not_mediaOkTaken : ¬ Obligations.MediaOkTaken := by
  intro h
  have hs := spoils_mediaStsOk
  obtain ⟨-, hok⟩ := h _ _ 0 true (standsAt_quiet hs.running hs.quiet)
  obtain ⟨-, hexit, -⟩ := hok 3 .fl false lostFlush rfl rfl rfl rfl
  obtain ⟨w, -, hexec, -, -, -, -, htaken⟩ := hexit (fun hop => nomatch hop) (by decide +kernel)
  obtain ⟨-, -, -, -, hfails, -⟩ := htaken
  exact hs.not_queueFails hexec (by decide) (by decide) (by decide +kernel) rfl rfl rfl rfl hfails

/-- A READY port with offline pending and a copy of the move at media. -/
def pendingCopy : Port := ⟨.ready, 0, 1000, some (.piece 0 .rd false), [], some 2000, false, .yes none, false⟩

theorem spoils_mediaStsError : Spoils (.mediaStsError 0 true 0 .range) (mixed pendingCopy []) :=
  ⟨by decide +kernel, by decide +kernel, by decide +kernel, by decide +kernel⟩

/-- Refutes O44: with offline pending an error status takes the port OFFLINE, and a copy that the request owns stays as
the queue fails. -/
theorem not_mediaErrorTaken : ¬ Obligations.MediaErrorTaken := by
  intro h
  have hs := spoils_mediaStsError
  obtain ⟨-, herror⟩ := h _ _ 0 true 0 .range (standsAt_quiet hs.running hs.quiet)
  obtain ⟨-, -, -, -, -, -, -, hexit⟩ := herror 0 .rd false movePiece rfl rfl rfl rfl
  obtain ⟨w, hexec, -, -, hfails, -⟩ := hexit (.inl (by decide)) (by decide +kernel)
  exact hs.not_queueFails hexec trivial (by decide) (by decide +kernel) rfl rfl rfl rfl hfails

end Sys2Proof.Machine
end

section
/-! SUPPORT. What an abort makes of the pieces of its move, and of the requests whose pieces it ends (R70, R71, R105, R110,
R111). -/

namespace Sys2Proof.Machine

/-! ### What a completion reports -/

/-- R41: two moments at which a completion carries the same attention bit, part state and generation. -/
structure SameReport (v w : State) : Prop where
  attention : attention w = attention v
  partState : w.svm.partState = v.svm.partState
  generation : w.xmp.generation = v.xmp.generation

namespace SameReport

theorem refl (s : State) : SameReport s s := ⟨rfl, rfl, rfl⟩

theorem trans {u v w : State} (h : SameReport u v) (k : SameReport v w) : SameReport u w :=
  ⟨k.attention.trans h.attention, k.partState.trans h.partState, k.generation.trans h.generation⟩

theorem of_frames {v w : State} (hc : w.control = v.control) (ho : w.outer = v.outer) : SameReport v w := by
  have hsvm : w.svm = v.svm := congrArg (·.2.2.2.1) hc
  have hmgu : w.mgu = v.mgu := congrArg (·.1) ho
  refine ⟨?_, by rw [hsvm], congrArg (·.2.2.2.2.2.2.2.1) hc⟩
  unfold Machine.attention
  rw [hmgu, hsvm]

theorem completionOf {v w : State} (h : SameReport v w) (t : Tag) (o : ReqOutcome) (c : Cause) (r d : Nat) :
    completionOf t o c r d w = completionOf t o c r d v := by
  simp only [Machine.completionOf, h.attention, h.partState, h.generation]

end SameReport

/-- R41: an answer stays in the transmit list, and its tag FREE. -/
theorem Answered.later {t : Tag} {o : ReqOutcome} {c : Cause} {r d : Nat} {S : PieceId → Prop} {v w : State}
    (h : Answered t o c r d v) (hcore : Core S v w) (hs : SameReport v w) : Answered t o c r d w := by
  obtain ⟨hentry, hmem⟩ := h
  exact ⟨hcore.freed t hentry, hs.completionOf t o c r d ▸ hcore.cmpl _ _ hmem⟩

/-! ### Entries but for their wait sets -/

/-- An entry but for its wait set, which completions of other requests change (R47). -/
def dry (e : Entry) : Entry := { e with waitSet := [] }

theorem outcomeAt_dry (e : Entry) : outcomeAt (dry e) = outcomeAt e := rfl

theorem cuttable_dry (e : Entry) : cuttable (dry e) = cuttable e := rfl

theorem resolved_dry (e : Entry) : Resolved (dry e) ↔ Resolved e := Iff.rfl

theorem dry_forget (t : Tag) (e : Entry) : dry (forget t e) = dry e := rfl

/-- Between `s` and `w` the entry under a tag has changed in its wait set at most. -/
def Aside (t : Tag) (s w : State) : Prop := (entryOf t w).map dry = (entryOf t s).map dry

namespace Aside

variable {t : Tag} {s v w : State}

theorem refl (t : Tag) (s : State) : Aside t s s := rfl

theorem trans (h : Aside t s v) (k : Aside t v w) : Aside t s w := Eq.trans k h

theorem of_eq (h : entryOf t w = entryOf t s) : Aside t s w := by rw [Aside, h]

/-- An entry that is there has stayed there. -/
theorem held (h : Aside t s w) {e : Entry} (he : entryOf t s = some e) : ∃ e', entryOf t w = some e' ∧ dry e' = dry e := by
  rw [Aside, he] at h
  exact Option.map_eq_some_iff.mp h

theorem complete {t' : Tag} (h : t ≠ t') (o : ReqOutcome) (c : Cause) (r d : Nat) (s : State) :
    Aside t s (complete t' o c r d s) := by
  obtain ⟨-, -, hother, -⟩ := complete_answers t' o c r d s
  rw [Aside, hother t h, Option.map_map]
  rfl

theorem setEntry {t' : Tag} (h : t ≠ t') (e : Option Entry) (s : State) : Aside t s (setEntry t' e s) :=
  .of_eq (entryOf_setEntry_ne h e s)

theorem completeData {t' : Tag} (h : t ≠ t') (e : Entry) (s : State) : Aside t s (completeData t' e s) := by
  unfold Machine.completeData
  split
  · exact .complete h ..
  · split <;> exact .complete h ..

theorem completeFlush {t' : Tag} (h : t ≠ t') (e : Entry) (s : State) : Aside t s (completeFlush t' e s) := by
  unfold Machine.completeFlush
  split
  · exact .complete h ..
  · split <;> exact .complete h ..

theorem ite {p : Prop} [Decidable p] (h : Aside t s v) : Aside t s (if p then v else s) := by
  split
  · exact h
  · exact .refl t s

theorem tryComplete {t' : Tag} (h : t ≠ t') (s : State) : Aside t s (tryComplete t' s) := by
  unfold Machine.tryComplete
  cases entryOf t' s with
  | none => exact .refl t s
  | some e =>
    dsimp only
    refine .ite ?_
    by_cases hk : namesBlocks e.kind = true
    · rw [if_pos hk]
      exact .ite (.completeData h e s)
    · rw [if_neg hk]
      exact .ite (.ite (.completeFlush h e s))

/-- R32, R48: a piece of another request ends DONE. -/
theorem requestOutcome_done {t' : Tag} (h : t ≠ t') (q : Piece) (s : State) :
    Aside t s (requestOutcome t' q .done s) := by
  unfold requestOutcome
  split
  · exact .refl t s
  · split
    · exact (Aside.setEntry h _ s).trans (.tryComplete h _)
    · exact (Aside.setEntry h _ s).trans (.tryComplete h _)

end Aside

/-- A DONE changes no piece. -/
theorem requestOutcome_done_pieceOf (t : Tag) (q : Piece) (s : State) (j : PieceId) :
    pieceOf j (requestOutcome t q .done s) = pieceOf j s := by
  unfold requestOutcome
  split
  · rfl
  · split
    · exact tryComplete_pieceOf ..
    · exact tryComplete_pieceOf ..

/-! ### One piece -/

/-- R71, R111: what an abort leaves of a piece. -/
def released (q : Piece) : Option Piece :=
  if q.kind = .cp then
    if q.state = .queued then none
    else if q.state = .shadow then some { q with owner := .discard }
    else some { q with owner := .discard, shadow := none }
  else if q.state = .shadow then some q
  else if q.state = .shadowWait then none
  else some { q with shadow := none }

/-- R70, R105: whether an abort ends a piece of a request. -/
def abortEnds (t : Tag) (j : PieceId) (s : State) : Bool :=
  (pieceOf j s).any fun q => q.owner = .tag t && q.kind ≠ .cp && q.state = .shadowWait

theorem abortEnds_iff {t : Tag} {j : PieceId} {s : State} : abortEnds t j s = true ↔
    ∃ q, pieceOf j s = some q ∧ q.owner = .tag t ∧ q.kind ≠ .cp ∧ q.state = .shadowWait := by
  unfold abortEnds
  cases h : pieceOf j s with
  | none => simp
  | some q => simp [and_assoc]

theorem abortPiece_none {id : PieceId} {s : State} (h : pieceOf id s = none) : abortPiece id s = s := by
  simp only [abortPiece, h]

/-- R71, R111: an abort acts on a piece by its kind and state. -/
theorem abortPiece_eq {id : PieceId} {q : Piece} {s : State} (h : pieceOf id s = some q) : abortPiece id s =
    if q.kind = .cp then
      if q.state = .queued then detachPiece id s
      else if q.state = .shadow then modPiece id (fun p => { p with owner := .discard }) s
      else modPiece id (fun p => { p with owner := .discard, shadow := none }) s
    else if q.state = .shadow then s
    else if q.state = .shadowWait then pieceEnds id .done none s
    else modPiece id (fun p => { p with shadow := none }) s := by
  simp only [abortPiece, h]
  by_cases hk : q.kind = .cp
  · rw [if_pos hk, if_pos hk]
    cases q.state <;> rfl
  · rw [if_neg hk, if_neg hk]
    cases q.state <;> rfl

theorem modPiece_pieceOf (id j : PieceId) (f : Piece → Piece) (s : State) :
    pieceOf j (modPiece id f s) = if j = id then (pieceOf id s).map f else pieceOf j s := by
  by_cases h : j = id
  · subst h
    rw [if_pos rfl]
    exact pieceOf_setPiece_self ..
  · rw [if_neg h]
    exact pieceOf_setPiece_ne h _ s

theorem detachPiece_pieceOf (id j : PieceId) (s : State) :
    pieceOf j (detachPiece id s) = if j = id then none else pieceOf j s := by
  by_cases h : j = id
  · subst h
    rw [if_pos rfl]
    cases hq : pieceOf j s with
    | none => rw [detachPiece_none hq, hq]
    | some q => exact (detachPiece_gone hq).1
  · rw [if_neg h]
    exact detachPiece_other h s

theorem pieceEnds_done_pieceOf (id j : PieceId) (s : State) :
    pieceOf j (pieceEnds id .done none s) = if j = id then none else pieceOf j s := by
  cases hq : pieceOf id s with
  | none =>
    rw [pieceEnds_none hq]
    split
    · next h => rw [h, hq]
    · rfl
  | some q =>
    by_cases ht : ∃ t, q.owner = .tag t
    · obtain ⟨t, ht⟩ := ht
      rw [pieceEnds_tag hq ht, requestOutcome_done_pieceOf]
      exact detachPiece_pieceOf id j s
    · rw [pieceEnds_other hq fun t x => ht ⟨t, x⟩]
      exact detachPiece_pieceOf id j s

/-- R71, R111: an abort changes the piece on which it acts, and no other. -/
theorem abortPiece_pieceOf (id j : PieceId) (s : State) :
    pieceOf j (abortPiece id s) = if j = id then (pieceOf id s).bind released else pieceOf j s := by
  cases hq : pieceOf id s with
  | none =>
    rw [abortPiece_none hq]
    split
    · next h => rw [h, hq]; rfl
    · rfl
  | some q =>
    have hkeeps : pieceOf j s = if j = id then some q else pieceOf j s := by
      split
      · next h => rw [h, hq]
      · rfl
    rw [abortPiece_eq hq, Option.bind_some, released]
    by_cases hk : q.kind = .cp
    · simp only [if_pos hk]
      by_cases h1 : q.state = .queued
      · rw [if_pos h1, if_pos h1, detachPiece_pieceOf]
      · simp only [if_neg h1]
        by_cases h2 : q.state = .shadow
        · rw [if_pos h2, if_pos h2, modPiece_pieceOf, hq]
          rfl
        · rw [if_neg h2, if_neg h2, modPiece_pieceOf, hq]
          rfl
    · simp only [if_neg hk]
      by_cases h1 : q.state = .shadow
      · rw [if_pos h1, if_pos h1]
        exact hkeeps
      · simp only [if_neg h1]
        by_cases h2 : q.state = .shadowWait
        · rw [if_pos h2, if_pos h2, pieceEnds_done_pieceOf]
        · rw [if_neg h2, if_neg h2, modPiece_pieceOf, hq]
          rfl

/-- A piece that an abort has released it does not change again. -/
theorem released_idem (q : Piece) : (released q).bind released = released q := by
  unfold released
  by_cases hk : q.kind = .cp
  · rw [if_pos hk]
    by_cases h1 : q.state = .queued
    · rw [if_pos h1]
      rfl
    · rw [if_neg h1]
      by_cases h2 : q.state = .shadow
      · simp [hk, h2]
      · simp [hk, h1, h2]
  · rw [if_neg hk]
    by_cases h1 : q.state = .shadow
    · simp [hk, h1]
    · rw [if_neg h1]
      by_cases h2 : q.state = .shadowWait
      · rw [if_pos h2]
        rfl
      · simp [hk, h1, h2]

/-- R70: an abort has no other end to take of the piece on which it has acted. -/
theorem abortEnds_abortPiece (t : Tag) (id j : PieceId) (s : State) :
    abortEnds t j (abortPiece id s) = (decide (j ≠ id) && abortEnds t j s) := by
  unfold abortEnds
  rw [abortPiece_pieceOf]
  by_cases h : j = id
  · subst h
    rw [if_pos rfl]
    cases pieceOf j s with
    | none => simp
    | some q =>
      simp only [Option.bind_some, ne_eq, not_true_eq_false, decide_false, Bool.false_and]
      unfold released
      by_cases hk : q.kind = .cp
      · rw [if_pos hk]
        repeat' split
        all_goals simp [hk]
      · rw [if_neg hk]
        repeat' split
        all_goals simp_all
  · simp [h]

/-- R70: a piece whose end an abort does not take for a request leaves its entry aside. -/
theorem abortPiece_aside {t : Tag} {id : PieceId} {s : State} (h : abortEnds t id s = false) :
    Aside t s (abortPiece id s) := by
  cases hq : pieceOf id s with
  | none => rw [abortPiece_none hq]; exact .refl t s
  | some q =>
    have hmod (f : Piece → Piece) : Aside t s (modPiece id f s) := .of_eq rfl
    have hdetach : Aside t s (detachPiece id s) := .of_eq (detachPiece_entryOf id t s)
    rw [abortPiece_eq hq]
    split
    · split
      · exact hdetach
      · split
        · exact hmod _
        · exact hmod _
    · next hk =>
      split
      · exact .refl t s
      · split
        · next hs =>
          by_cases ho : ∃ t', q.owner = .tag t'
          · obtain ⟨t', ho⟩ := ho
            have hne : t ≠ t' := by
              rintro rfl
              rw [abortEnds_iff.mpr ⟨q, hq, ho, hk, hs⟩] at h
              nomatch h
            rw [pieceEnds_tag hq ho]
            exact hdetach.trans (.requestOutcome_done hne q _)
          · rw [pieceEnds_other hq fun t' x => ho ⟨t', x⟩]
            exact hdetach
        · exact hmod _

/-- R70: a piece in SHADOW_WAIT ends DONE to its request. -/
theorem abortPiece_takes {t : Tag} {id : PieceId} {q : Piece} {e : Entry} {s : State} (hq : pieceOf id s = some q)
    (ho : q.owner = .tag t) (hk : q.kind ≠ .cp) (hs : q.state = .shadowWait) (he : entryOf t s = some e)
    (hr : Resolved e) : PieceDone t e q (abortPiece id s) := by
  have hshadow : q.state ≠ .shadow := by rw [hs]; decide
  have he' : entryOf t (leavesPart id none s) = some e := (detachPiece_entryOf id t s).trans he
  rw [abortPiece_eq hq, if_neg hk, if_neg hshadow, if_pos hs, pieceEnds_tag hq ho, requestOutcome, he']
  dsimp only
  rw [if_neg (resolved_notFlush hr)]
  exact dataOutcome_done t e q _ hr

/-! ### All pieces of a move -/

/-- R71, R111: an abort acts on some pieces, in their order. -/
def abortAll (l : List PieceId) (s : State) : State := l.foldl (fun s id => abortPiece id s) s

theorem abortAll_cons (id : PieceId) (l : List PieceId) (s : State) :
    abortAll (id :: l) s = abortAll l (abortPiece id s) := rfl

theorem abortAll_report (l : List PieceId) (s : State) : SameReport s (abortAll l s) :=
  .of_frames (foldl_control _ (fun s i => abortPiece_control i s) l s) (foldl_outer _ (fun s i => abortPiece_outer i s) l s)

theorem abortAll_pieceOf (l : List PieceId) (j : PieceId) (s : State) :
    pieceOf j (abortAll l s) = if j ∈ l then (pieceOf j s).bind released else pieceOf j s := by
  induction l generalizing s with
  | nil => rfl
  | cons id l ih =>
    rw [abortAll_cons, ih, abortPiece_pieceOf]
    by_cases h : j = id
    · subst h
      have hidem : ((pieceOf j s).bind released).bind released = (pieceOf j s).bind released := by
        rw [Option.bind_assoc]
        exact Option.bind_congr fun q _ => released_idem q
      simp [hidem]
    · simp [h]

/-- R70, R105: the pieces of a request that an abort ends. -/
def endedIn (t : Tag) (l : List PieceId) (s : State) : List PieceId :=
  allPieces.filter fun j => decide (j ∈ l) && abortEnds t j s

/-- R32: the request offsets of some pieces. -/
def offsetsOf (s : State) (l : List PieceId) : List Nat :=
  l.flatMap fun j => ((pieceOf j s).map fun q => (List.range q.count).map (q.offset + ·)).getD []

theorem mem_endedIn {t : Tag} {l : List PieceId} {s : State} {j : PieceId} :
    j ∈ endedIn t l s ↔ j ∈ l ∧ abortEnds t j s = true := by
  simp [endedIn, allPieces]

theorem endedIn_nodup (t : Tag) (l : List PieceId) (s : State) : (endedIn t l s).Nodup :=
  (List.nodup_finRange 48).filter _

theorem endedIn_cons_of_not {t : Tag} {id : PieceId} {l : List PieceId} {s : State} (h : abortEnds t id s = false) :
    endedIn t (id :: l) s = endedIn t l (abortPiece id s) := by
  refine List.filter_congr fun j _ => ?_
  rw [abortEnds_abortPiece]
  by_cases hj : j = id
  · subst hj
    simp [h]
  · simp [hj]

theorem endedIn_cons_perm {t : Tag} {id : PieceId} {l : List PieceId} {s : State} (h : abortEnds t id s = true) :
    (endedIn t (id :: l) s).Perm (id :: endedIn t l (abortPiece id s)) := by
  have hself : id ∉ endedIn t l (abortPiece id s) := by
    rw [mem_endedIn, abortEnds_abortPiece]
    simp
  refine (List.perm_ext_iff_of_nodup (endedIn_nodup ..) (List.nodup_cons.mpr ⟨hself, endedIn_nodup ..⟩)).mpr fun j => ?_
  rw [List.mem_cons, mem_endedIn, mem_endedIn, abortEnds_abortPiece]
  by_cases hj : j = id
  · subst hj
    simp [h]
  · simp [hj]

theorem offsetsOf_congr {l : List PieceId} {s w : State} (h : ∀ j ∈ l, pieceOf j w = pieceOf j s) :
    offsetsOf w l = offsetsOf s l := by
  unfold offsetsOf
  induction l with
  | nil => rfl
  | cons j l ih =>
    rw [List.flatMap_cons, List.flatMap_cons, h j (List.mem_cons_self ..), ih fun i hi => h i (List.mem_cons_of_mem j hi)]

theorem offsetsOf_endedIn (t : Tag) (id : PieceId) (l : List PieceId) (s : State) :
    offsetsOf (abortPiece id s) (endedIn t l (abortPiece id s)) = offsetsOf s (endedIn t l (abortPiece id s)) := by
  refine offsetsOf_congr fun j hj => ?_
  obtain ⟨-, hends⟩ := mem_endedIn.mp hj
  rw [abortEnds_abortPiece, Bool.and_eq_true, decide_eq_true_iff] at hends
  rw [abortPiece_pieceOf, if_neg hends.1]

/-! ### The request of the pieces that an abort ends -/

theorem doneRun_congr {d d' : List Nat} (h : ∀ x, x ∈ d ↔ x ∈ d') (n k : Nat) : doneRun d n k = doneRun d' n k := by
  induction n generalizing k with
  | zero => rfl
  | succ n ih => simp only [doneRun, h k, ih]

/-- R33, R40: the outcome of a request reads its done set as a set. -/
theorem outcomeAt_congr {e e' : Entry} {d d' : List Nat} (he : dry e' = dry e) (h : ∀ x, x ∈ d ↔ x ∈ d') :
    outcomeAt { e' with done := d } = outcomeAt { e with done := d' } := by
  have hentry : dry { e' with done := d } = dry { e with done := d } := by
    calc dry { e' with done := d } = { dry e' with done := d } := rfl
      _ = { dry e with done := d } := by rw [he]
  have hrem : remainingOf { e with done := d } = remainingOf { e with done := d' } := by
    simp only [remainingOf, doneRun_congr h]
  calc outcomeAt { e' with done := d } = outcomeAt (dry { e' with done := d }) := rfl
    _ = outcomeAt { e with done := d } := by rw [hentry]; rfl
    _ = outcomeAt { e with done := d' } := by simp only [outcomeAt, hrem]

/-- R32, R39, R40: a request has taken DONE of `n` of its pieces, which covered the offsets `took`. -/
structure Takes (t : Tag) (e : Entry) (n : Nat) (took : List Nat) (w : State) : Prop where
  held : ∀ e', entryOf t w = some e' → ∃ d, dry e' = dry { e with notEnded := e.notEnded - n, done := d } ∧
    ∀ x, x ∈ d ↔ x ∈ e.done ∨ x ∈ took
  stays : n < e.notEnded → (entryOf t w).isSome = true
  ends : n ≠ 0 → e.notEnded = n → cuttable e = false → ∀ d, (∀ x, x ∈ d ↔ x ∈ e.done ∨ x ∈ took) →
    Answered t (outcomeAt { e with done := d }).1 (outcomeAt { e with done := d }).2.1
      (outcomeAt { e with done := d }).2.2.1 (outcomeAt { e with done := d }).2.2.2 w

namespace Takes

variable {t : Tag} {e e₀ : Entry} {n : Nat} {took took' : List Nat} {s v w : State}

theorem of_aside (h : Aside t s w) (he : entryOf t s = some e) : Takes t e 0 [] w where
  held e' he' := by
    obtain ⟨e₁, he₁, hd⟩ := h.held he
    obtain rfl := Option.some.inj (he₁.symm.trans he')
    exact ⟨e.done, hd, by simp⟩
  stays _ := by
    obtain ⟨e₁, he₁, -⟩ := h.held he
    rw [he₁]
    rfl
  ends h0 := absurd rfl h0

theorem congr (h : Takes t e₀ n took w) (he : dry e₀ = dry e) (ht : ∀ x, x ∈ took ↔ x ∈ took') : Takes t e n took' w := by
  have hnot : e₀.notEnded = e.notEnded := (congrArg Entry.notEnded he :)
  have hdone : e₀.done = e.done := (congrArg Entry.done he :)
  have hcut : cuttable e₀ = cuttable e := (congrArg cuttable he :)
  refine ⟨fun e' he' => ?_, fun hn => h.stays (hnot ▸ hn), fun h0 hn hc d hd => ?_⟩
  · obtain ⟨d, h1, h2⟩ := h.held e' he'
    refine ⟨d, ?_, fun x => by rw [h2 x, hdone, ht x]⟩
    calc dry e' = { dry e₀ with notEnded := e₀.notEnded - n, done := d } := h1
      _ = { dry e with notEnded := e.notEnded - n, done := d } := by rw [he, hnot]
  · rw [← outcomeAt_congr he fun x => Iff.rfl]
    exact h.ends h0 (hnot.trans hn) (hcut.trans hc) d fun x => by rw [hd x, hdone, ht x]

/-- R32: a request with one piece fewer, whose offsets are done. -/
def tookPiece (q : Piece) (e : Entry) : Entry :=
  { e with notEnded := e.notEnded - 1, done := e.done ++ (List.range q.count).map (q.offset + ·) }

/-- R32: one more piece. -/
theorem step {S : PieceId → Prop} {q : Piece} (hdone : PieceDone t e q v) (hcore : Core S v w) (hs : SameReport v w)
    (h0 : n = 0 → took = []) (h : entryOf t v = some (tookPiece q e) → Takes t (tookPiece q e) n took w) :
    Takes t e (n + 1) ((List.range q.count).map (q.offset + ·) ++ took) w := by
  replace hdone : HeldOrAnswered t (tookPiece q e) v := hdone
  unfold HeldOrAnswered at hdone
  have hnot : (tookPiece q e).notEnded = e.notEnded - 1 := rfl
  have hcuts : cuttable (tookPiece q e) = cuttable e := rfl
  split at hdone
  · next hlast =>
    have hanswer := hdone.later hcore hs
    have hnone := hanswer.1
    refine { held := fun e' he' => (nomatch hnone.symm.trans he'), stays := fun hn => ?_, ends := fun _ hn _ d hd => ?_ }
    · omega
    · have htook : took = [] := h0 (by omega)
      have hsame : outcomeAt { e with done := d } = outcomeAt { tookPiece q e with done := (tookPiece q e).done } :=
        outcomeAt_congr (e' := tookPiece q e) rfl fun x => by
          rw [hd x, htook, ← List.mem_append, List.append_nil]
          rfl
      rw [hsame]
      exact hanswer
  · next hmore =>
    have htakes := h hdone
    refine { held := fun e' he' => ?_, stays := fun hn => htakes.stays (by omega), ends := fun _ hn hc d hd => ?_ }
    · obtain ⟨d, h1, h2⟩ := htakes.held e' he'
      refine ⟨d, h1.trans ?_, fun x => ?_⟩
      · have hsub : (tookPiece q e).notEnded - n = e.notEnded - (n + 1) := by omega
        rw [hsub]
        rfl
      · rw [h2 x, ← List.mem_append, ← List.mem_append, ← List.append_assoc]
        rfl
    · have hn0 : n ≠ 0 := fun hn0 => hmore ⟨by omega, hcuts.trans hc⟩
      refine htakes.ends hn0 (by omega) (hcuts.trans hc) d fun x => ?_
      rw [hd x, ← List.mem_append, ← List.mem_append, ← List.append_assoc]
      rfl

end Takes

/-- R70, R105: an abort takes for a request DONE of its pieces in SHADOW_WAIT. -/
theorem abortAll_takes {t : Tag} (l : List PieceId) {e : Entry} {s : State} (hm : s.mve = none)
    (he : entryOf t s = some e) (hr : Resolved e) :
    Takes t e (endedIn t l s).length (offsetsOf s (endedIn t l s)) (abortAll l s) := by
  induction l generalizing s e with
  | nil =>
    have hnil : endedIn t [] s = [] := by simp [endedIn]
    rw [hnil]
    exact .of_aside (.refl t s) he
  | cons id l ih =>
    have hm' : (abortPiece id s).mve = none := (Core.abortPiece (S := fun _ => True) trivial hm).2
    cases hends : abortEnds t id s with
    | false =>
      obtain ⟨e', he', hd⟩ := (abortPiece_aside hends).held he
      have hr' : Resolved e' := (resolved_dry e').mp (hd ▸ (resolved_dry e).mpr hr)
      rw [endedIn_cons_of_not hends, abortAll_cons]
      refine (ih hm' he' hr').congr hd fun x => ?_
      rw [offsetsOf_endedIn]
    | true =>
      obtain ⟨q, hq, ho, hk, hs⟩ := abortEnds_iff.mp hends
      have hperm := endedIn_cons_perm (l := l) hends
      have hdone := abortPiece_takes hq ho hk hs he hr
      have hrest := offsetsOf_endedIn t id l s
      have hcore := (Core.abortPieces (S := fun _ => True) l (fun _ _ => trivial) hm').1
      have hstep := Takes.step (n := (endedIn t l (abortPiece id s)).length)
        (took := offsetsOf s (endedIn t l (abortPiece id s))) hdone hcore (abortAll_report l _)
        (fun h0 => by rw [List.length_eq_zero_iff.mp h0]; rfl)
        (fun he' => hrest ▸ ih hm' he' ⟨hr.1, hr.2⟩)
      rw [hperm.length_eq, List.length_cons, abortAll_cons]
      refine hstep.congr rfl fun x => ?_
      have hoffsets : offsetsOf s (id :: endedIn t l (abortPiece id s)) =
          (List.range q.count).map (q.offset + ·) ++ offsetsOf s (endedIn t l (abortPiece id s)) := by
        simp only [offsetsOf, List.flatMap_cons, hq, Option.map_some, Option.getD_some]
      rw [← hoffsets]
      exact ((hperm.symm.flatMap_right _).mem_iff)

end Sys2Proof.Machine
end

section
/-! SUPPORT. The abort of a move that no other end of its event accompanies (R71, R110), and the supervision failures that
bring one (R146 to R153). -/

namespace Sys2Proof.Machine

/-! ### The abort as the statements on it say it -/

theorem Takes.later {S : PieceId → Prop} {t : Tag} {e : Entry} {n : Nat} {took : List Nat} {v w : State}
    (h : Takes t e n took v) (ha : Aside t v w) (hcore : Core S v w) (hs : SameReport v w) : Takes t e n took w where
  held e' he' := by
    cases hv : entryOf t v with
    | none => nomatch (hcore.freed t hv).symm.trans he'
    | some e₁ =>
      obtain ⟨e₂, he₂, hd⟩ := ha.held hv
      obtain rfl := Option.some.inj (he₂.symm.trans he')
      obtain ⟨d, h1, h2⟩ := h.held e₁ hv
      exact ⟨d, hd.trans h1, h2⟩
  stays hn := by
    obtain ⟨e₁, he₁⟩ := Option.isSome_iff_exists.mp (h.stays hn)
    obtain ⟨e₂, he₂, -⟩ := ha.held he₁
    rw [he₂]
    rfl
  ends h0 hn hc d hd := (h.ends h0 hn hc d hd).later hcore hs

/-- R70, R105: the pieces in SHADOW_WAIT that an abort ends are those that it reaches and ends. -/
theorem filter_waitsForMove (m : Move) (t : Tag) (u : State) :
    allPieces.filter (waitsForMove m t u) = endedIn t (abortedPieces m u) u := by
  refine List.filter_congr fun j _ => ?_
  have hmem : decide (j ∈ abortedPieces m u) = (decide (j ∈ m.shadows) || decide (j ∈ u.psc.waiting)) := by
    rw [← Bool.decide_or, decide_eq_decide]
    exact mem_abortedPieces
  rw [hmem]
  rfl

theorem moveReleased_pieceOf (m : Move) (j : PieceId) (u : State) : pieceOf j (moveReleased m u) =
    if j ∈ m.shadows ∨ j ∈ u.psc.waiting then (pieceOf j u).bind released else pieceOf j u := by
  have hall := abortAll_pieceOf (abortedPieces m u) j (moveOver u)
  simp only [mem_abortedPieces] at hall
  exact hall

theorem released_cp_queued {q : Piece} (hk : q.kind = .cp) (hs : q.state = .queued) : released q = none := by
  simp [released, hk, hs]

theorem released_cp_shadow {q : Piece} (hk : q.kind = .cp) (hs : q.state = .shadow) :
    released q = some { q with owner := .discard } := by simp [released, hk, hs]

theorem released_cp_other {q : Piece} (hk : q.kind = .cp) (h1 : q.state ≠ .queued) (h2 : q.state ≠ .shadow) :
    released q = some { q with owner := .discard, shadow := none } := by simp [released, hk, h1, h2]

theorem released_shadow {q : Piece} (hk : q.kind ≠ .cp) (hs : q.state = .shadow) : released q = some q := by
  simp [released, hk, hs]

theorem released_shadowWait {q : Piece} (hk : q.kind ≠ .cp) (hs : q.state = .shadowWait) : released q = none := by
  simp [released, hk, hs]

theorem released_other {q : Piece} (hk : q.kind ≠ .cp) (h1 : q.state ≠ .shadow) (h2 : q.state ≠ .shadowWait) :
    released q = some { q with shadow := none } := by simp [released, hk, h1, h2]

/-- R71, R110, R111: what the statements say of an abort follows from what it makes of its pieces and of the requests of
those that it ends. -/
theorem AbortAlone.of_released {m : Move} {u w : State} (hcore : Core (fun _ => True) u w)
    (hp : ∀ j, pieceOf j w =
      if j ∈ m.shadows ∨ j ∈ u.psc.waiting then (pieceOf j u).bind released else pieceOf j u)
    (ht : ∀ t e, t ≠ m.tag → entryOf t u = some e → Resolved e →
      Takes t e (endedIn t (abortedPieces m u) u).length (offsetsOf u (endedIn t (abortedPieces m u) u)) w) :
    AbortAlone m u w := by
  refine ⟨⟨fun id q hq hid _ => ?_, fun t e _ hne he hr => ?_⟩, fun id h1 h2 => ?_⟩
  · have hself : pieceOf id w = released q := by rw [hp id, if_pos hid, hq, Option.bind_some]
    have hgone (h : released q = none) : PieceGone id q w := (hcore.gone id q hq (hself.trans h)).1
    exact ⟨fun hk => ⟨fun hs => hgone (released_cp_queued hk hs), fun hs => hself.trans (released_cp_shadow hk hs),
        fun h1 h2 => hself.trans (released_cp_other hk h1 h2)⟩,
      fun hk => ⟨fun hs => hself.trans (released_shadow hk hs), fun hs => hgone (released_shadowWait hk hs),
        fun h1 h2 => hself.trans (released_other hk h1 h2)⟩⟩
  · intro ended taken done
    have hended : ended = endedIn t (abortedPieces m u) u := filter_waitsForMove m t u
    have htaken : taken = offsetsOf u ended := rfl
    have htakes := ht t e hne he hr
    rw [← hended, ← htaken] at htakes
    refine ⟨fun e' he' => ?_, htakes.stays, fun hne hlen hcut => ?_⟩
    · obtain ⟨d, hd, hmem⟩ := htakes.held e' he'
      have hdone : e'.done = d := (congrArg Entry.done hd :)
      exact ⟨(congrArg Entry.notEnded hd :), fun x => by rw [hdone]; exact hmem x⟩
    · exact htakes.ends (fun h => hne (List.length_eq_zero_iff.mp h)) hlen hcut _ fun x => List.mem_append
  · rw [hp id, if_neg (not_or.mpr ⟨h1, h2⟩)]

/-- R110: the active move is over: its MOVE is answered, its extent NORMAL, and its pieces are released. -/
structure MoveAborted (m : Move) (o : ReqOutcome) (c : Cause) (d : Nat) (u w : State) : Prop where
  idle : w.mve = none
  map : w.xmp = { u.xmp with active := settleMap u.xmp.active }
  answered : Answered m.tag o c 0 d w
  alone : AbortAlone m u w

theorem moveReleased_takes {m : Move} {u : State} {t : Tag} {e : Entry} (he : entryOf t u = some e) (hr : Resolved e) :
    Takes t e (endedIn t (abortedPieces m u) u).length (offsetsOf u (endedIn t (abortedPieces m u) u)) (moveReleased m u) :=
  abortAll_takes (abortedPieces m u) (s := moveOver u) rfl he hr

theorem complete_report (t : Tag) (o : ReqOutcome) (c : Cause) (r d : Nat) (s : State) :
    SameReport s (complete t o c r d s) := .of_frames (complete_control ..) (complete_outer ..)

/-- R110: an abort that reports. -/
theorem abortMove_aborted {u : State} {m : Move} (h : u.mve = some m) (o : ReqOutcome) (c : Cause) (d : Nat) :
    MoveAborted m o c d u (abortMove o c d true u) := by
  obtain ⟨hidle, hmap, hentry, hmem⟩ := abortMove_aborts h o c d
  refine ⟨hidle, hmap, ⟨hentry, hmem⟩, ?_⟩
  refine .of_released ((Ends.abortMove o c d true u).core.mono fun _ _ => trivial) (fun j => ?_) fun t e hne he hr => ?_
  · rw [abortMove_eq h, if_pos rfl, complete_pieceOf, moveReleased_pieceOf]
  · rw [abortMove_eq h, if_pos rfl]
    exact (moveReleased_takes he hr).later (.complete hne ..) (.complete (fun _ => True) ..) (complete_report ..)

/-! ### What the answers around an abort leave of it -/

/-- R41: between `v` and `w` requests under the tags that `T` names are answered, and nothing else happens. -/
structure OnlyAnswers (T : Tag → Prop) (v w : State) : Prop where
  media : SameMedia v w
  management : SameManagement v w
  core : Core (fun _ => False) v w
  aside : ∀ t, ¬T t → Aside t v w
  body : moveBody w.mve = moveBody v.mve

theorem OnlyAnswers.complete (t : Tag) (o : ReqOutcome) (c : Cause) (r d : Nat) (s : State) :
    OnlyAnswers (· = t) s (complete t o c r d s) where
  media := SameMedia.complete ⟨rfl, rfl, rfl, rfl, rfl, rfl, rfl⟩ t o c r d
  management := SameManagement.complete ⟨rfl, rfl, rfl, rfl⟩ t o c r d
  core := .complete _ t o c r d s
  aside _ ht := .complete ht ..
  body := by
    rw [complete_mve]
    cases s.mve <;> rfl

theorem OnlyAnswers.sendCmpl (t : Tag) (o : ReqOutcome) (c : Cause) (r d : Nat) (s : State) :
    OnlyAnswers (fun _ => False) s (sendCmpl t o c r d s) where
  media := ⟨rfl, rfl, rfl, rfl, rfl, rfl, rfl⟩
  management := ⟨rfl, rfl, rfl, rfl⟩
  core := by
    have hbase : Core (fun _ => False) s s := .refl _ s
    refine { hbase with
      cmpl := fun c' b h => List.mem_append_left _ h
      frames := fun j t' n b h => (List.mem_append.mp h).resolve_right fun h' => ?_
      gone := fun j r h h' => nomatch h.symm.trans h' }
    nomatch List.mem_singleton.mp h'
  aside t' _ := .of_eq rfl
  body := rfl

section Answers

variable {T : Tag → Prop} {u v w : State}

theorem OnlyAnswers.pieceOf (h : OnlyAnswers T v w) (j : PieceId) : pieceOf j w = pieceOf j v := by
  obtain ⟨hpsc, -⟩ := h.media
  unfold Machine.pieceOf
  rw [hpsc]

theorem OnlyAnswers.idle (h : OnlyAnswers T v w) (hv : v.mve = none) : w.mve = none := by
  have hbody := h.body
  rw [hv] at hbody
  exact Option.map_eq_none_iff.mp hbody

theorem OnlyAnswers.report (h : OnlyAnswers T v w) : SameReport v w := by
  obtain ⟨hxmp, hmgu, -, hsvm⟩ := h.management
  exact ⟨by unfold attention; rw [hmgu, hsvm], by rw [hsvm], by rw [hxmp]⟩

/-- R71: a request is answered beside an abort. -/
theorem AbortAlone.later {m : Move} (h : AbortAlone m u v) (k : OnlyAnswers T v w)
    (hT : ∀ t, T t → t ≠ m.tag → entryOf t u = none) : AbortAlone m u w := by
  obtain ⟨⟨hpieces, htags⟩, hothers⟩ := h
  refine ⟨⟨fun id q hq hid _ => ?_, fun t e _ hne he hr => ?_⟩, fun id h1 h2 => (k.pieceOf id).trans (hothers id h1 h2)⟩
  · obtain ⟨hcp, hwr⟩ := hpieces id q hq hid trivial
    refine ⟨fun hk => ?_, fun hk => ?_⟩
    · obtain ⟨h1, h2, h3⟩ := hcp hk
      exact ⟨fun hs => (h1 hs).shrinks k.core.shrinks, fun hs => (k.pieceOf id).trans (h2 hs),
        fun hs hs' => (k.pieceOf id).trans (h3 hs hs')⟩
    · obtain ⟨h1, h2, h3⟩ := hwr hk
      exact ⟨fun hs => (k.pieceOf id).trans (h1 hs), fun hs => (h2 hs).shrinks k.core.shrinks,
        fun hs hs' => (k.pieceOf id).trans (h3 hs hs')⟩
  · have haside : Aside t v w := k.aside t fun hTt => nomatch (hT t hTt hne).symm.trans he
    obtain ⟨hheld, hstays, hends⟩ := htags t e trivial hne he hr
    refine ⟨fun e' he' => ?_, fun hlen => ?_, fun h1 h2 h3 => (hends h1 h2 h3).later k.core k.report⟩
    · cases hv : entryOf t v with
      | none => nomatch (k.core.freed t hv).symm.trans he'
      | some e₁ =>
        obtain ⟨e₂, he₂, hd⟩ := haside.held hv
        obtain rfl := Option.some.inj (he₂.symm.trans he')
        obtain ⟨hnot, hdone⟩ := hheld e₁ hv
        have hsame := congrArg Entry.done hd
        exact ⟨(congrArg Entry.notEnded hd :).trans hnot, fun x => Iff.trans (iff_of_eq (congrArg (x ∈ ·) hsame)) (hdone x)⟩
    · obtain ⟨e₁, he₁⟩ := Option.isSome_iff_exists.mp (hstays hlen)
      obtain ⟨e₂, he₂, -⟩ := haside.held he₁
      rw [he₂]
      rfl

/-- R71: an abort reads the pieces and the entries of the moment at which it begins. -/
theorem AbortAlone.of_start {m : Move} (h : AbortAlone m v w) (hpsc : v.psc = u.psc)
    (hentries : ∀ t e, entryOf t u = some e → entryOf t v = some e) : AbortAlone m u w := by
  have hp (j : PieceId) : Machine.pieceOf j v = Machine.pieceOf j u := by unfold Machine.pieceOf; rw [hpsc]
  have hwaits (t : Tag) : waitsForMove m t v = waitsForMove m t u := by
    funext j
    simp only [waitsForMove, hp, hpsc]
  obtain ⟨⟨hpieces, htags⟩, hothers⟩ := h
  refine ⟨⟨fun id q hq hid => ?_, fun t e ht hne he hr => ?_⟩, fun id h1 h2 => ?_⟩
  · exact hpieces id q ((hp id).trans hq) (hpsc ▸ hid)
  · have hclause := htags t e ht hne (hentries t e he) hr
    simp only [hwaits, hp] at hclause
    exact hclause
  · exact (hothers id h1 (hpsc ▸ h2)).trans (hp id)

end Answers

/-! ### The fence (R151 to R153) -/

theorem MoveFails.later {T : Tag → Prop} {c : Cause} {u v w : State} (h : MoveFails c u v) (k : OnlyAnswers T v w)
    (hT : ∀ t, T t → entryOf t u = none) : MoveFails c u w := by
  obtain ⟨hidle, hgen, hstaging, hopen, hmove⟩ := h
  obtain ⟨hxmp, -⟩ := k.management
  obtain ⟨hpsc, hspa, -⟩ := k.media
  refine ⟨k.idle hidle, by rw [hxmp]; exact hgen, by rw [hxmp]; exact hstaging, by rw [hxmp]; exact hopen, ?_⟩
  cases hm : u.mve with
  | none =>
    rw [hm] at hmove
    obtain ⟨hactive, hpsc', hspa'⟩ := hmove
    exact ⟨by rw [hxmp]; exact hactive, hpsc.trans hpsc', hspa.trans hspa'⟩
  | some m =>
    rw [hm] at hmove
    obtain ⟨hactive, hentry, hmem, halone⟩ := hmove
    obtain ⟨hentry', hmem'⟩ := Answered.later ⟨hentry, hmem⟩ k.core k.report
    exact ⟨by rw [hxmp]; exact hactive, hentry', hmem', halone.later k fun t hTt _ => hT t hTt⟩

theorem MoveFails.of_start {c : Cause} {u v w : State} (h : MoveFails c v w) (hmve : v.mve = u.mve) (hxmp : v.xmp = u.xmp)
    (hpsc : v.psc = u.psc) (hspa : v.spa = u.spa) (hentries : ∀ t e, entryOf t u = some e → entryOf t v = some e) :
    MoveFails c u w := by
  obtain ⟨hidle, hgen, hstaging, hopen, hmove⟩ := h
  rw [hxmp] at hgen hstaging hopen hmove
  refine ⟨hidle, hgen, hstaging, hopen, ?_⟩
  rw [hmve] at hmove
  cases hm : u.mve with
  | none =>
    rw [hm] at hmove
    obtain ⟨hactive, hpsc', hspa'⟩ := hmove
    exact ⟨hactive, hpsc'.trans hpsc, hspa'.trans hspa⟩
  | some m =>
    rw [hm] at hmove
    obtain ⟨hactive, hentry, hmem, halone⟩ := hmove
    exact ⟨hactive, hentry, hmem, halone.of_start hpsc hentries⟩

/-- R153: as the part enters FENCED, before an active move aborts. -/
def fenceSet (s : State) : State := setFlag .fence (setPartState .fenced s)

theorem fencePart_none {s : State} (h : s.mve = none) : fencePart s = fenceSet s := by
  have hm : (fenceSet s).mve = none := h
  unfold fencePart
  change (match (fenceSet s).mve with | none => _ | some m => _) = _
  rw [hm]
  rfl

theorem fencePart_some {s : State} {m : Move} (h : s.mve = some m) :
    fencePart s = abortMove .failed .fenced m.cursor true (fenceSet s) := by
  have hm : (fenceSet s).mve = some m := h
  unfold fencePart
  change (match (fenceSet s).mve with | none => _ | some m => _) = _
  rw [hm]
  rfl

/-- R153: the part that enters FENCED aborts an active move. -/
theorem fencePart_fails (s : State) : MoveFails .fenced s (fencePart s) := by
  cases hm : s.mve with
  | none =>
    rw [fencePart_none hm]
    refine ⟨hm, rfl, rfl, rfl, ?_⟩
    rw [hm]
    exact ⟨rfl, rfl, rfl⟩
  | some m =>
    rw [fencePart_some hm]
    obtain ⟨hidle, hmap, ⟨hentry, hmem⟩, halone⟩ :=
      abortMove_aborted (u := fenceSet s) (m := m) hm .failed .fenced m.cursor
    refine ⟨hidle, by rw [hmap]; rfl, by rw [hmap]; rfl, by rw [hmap]; rfl, ?_⟩
    rw [hm]
    exact ⟨by rw [hmap]; rfl, hentry, hmem, halone.of_start rfl fun _ _ h => h⟩

end Sys2Proof.Machine
end

section
/-! SUPPORT. Supervision failures (R146 to R153), and the requests, expiries and line changes that bring a fence. -/

namespace Sys2Proof.Machine

/-- R153: what the entry into FENCED leaves alone, and what it makes of MGU and of supervision. -/
theorem fencePart_frames (s : State) :
    (fencePart s).mgu = { s.mgu with flags := { s.mgu.flags with fence := true } } ∧
    (fencePart s).svm = { s.svm with partState := .fenced, timer := .stopped } ∧ (fencePart s).ports = s.ports ∧
    (fencePart s).out = s.out ∧ (fencePart s).pins = s.pins ∧ (fencePart s).mst = s.mst ∧
    (fencePart s).draws = s.draws ∧ (fencePart s).pending = s.pending := by
  cases hm : s.mve with
  | none =>
    rw [fencePart_none hm]
    exact ⟨rfl, rfl, rfl, rfl, rfl, rfl, rfl, rfl⟩
  | some m =>
    rw [fencePart_some hm]
    have hcontrol := abortMove_control .failed .fenced m.cursor true (fenceSet s)
    have houter := abortMove_outer .failed .fenced m.cursor true (fenceSet s)
    have hports := abortMove_ports .failed .fenced m.cursor true (fenceSet s)
    exact ⟨congrArg (·.1) houter, congrArg (·.2.2.2.1) hcontrol, hports, congrArg (·.2) houter,
      congrArg (·.2.1) hcontrol, congrArg (·.2.2.1) hcontrol, congrArg (·.2.2.2.2.1) hcontrol, congrArg (·.1) hcontrol⟩

/-- R151: the part that a cause is added to, before it enters FENCED. -/
def causeNoted (c : FenceCause) (s : State) : State :=
  setFlag .fence (s.setSvm { s.svm with causes := putCause c true s.svm.causes })

theorem addCause_run {c : FenceCause} {s : State} (hc : hasCause c s = false) (hr : s.svm.partState = .run) :
    addCause c s = fencePart (causeNoted c s) := by
  have hr' : (causeNoted c s).svm.partState = .run := hr
  simp only [addCause, hc, Bool.false_eq_true, if_false]
  exact if_pos hr'

theorem addCause_other {c : FenceCause} {s : State} (hc : hasCause c s = false) (hr : s.svm.partState ≠ .run) :
    addCause c s = causeNoted c s := by
  have hr' : (causeNoted c s).svm.partState ≠ .run := hr
  simp only [addCause, hc, Bool.false_eq_true, if_false]
  exact if_neg hr'

theorem addCause_present {c : FenceCause} {s : State} (hc : hasCause c s = true) : addCause c s = s := by
  simp only [addCause, hc, if_true]

/-- R151 to R153: a cause fences a part in RUN. -/
theorem addCause_fences {c : FenceCause} {s : State} (hc : hasCause c s = false) (hr : s.svm.partState = .run) :
    MoveFails .fenced s (addCause c s) ∧
    (addCause c s).mgu = { s.mgu with flags := { s.mgu.flags with fence := true } } ∧
    (addCause c s).svm = { s.svm with
      partState := .fenced, timer := .stopped, causes := putCause c true s.svm.causes } ∧
    (addCause c s).ports = s.ports ∧ (addCause c s).out = s.out ∧ (addCause c s).pins = s.pins ∧
    (addCause c s).mst = s.mst ∧ (addCause c s).draws = s.draws ∧ (addCause c s).pending = s.pending := by
  rw [addCause_run hc hr]
  obtain ⟨hmgu, hsvm, hrest⟩ := fencePart_frames (causeNoted c s)
  exact ⟨(fencePart_fails (causeNoted c s)).of_start rfl rfl rfl rfl fun _ _ h => h, hmgu, hsvm, hrest⟩

/-- R152: a sound part in RUN holds no cause. -/
theorem SupervisionSound.no_cause {s : State} (h : SupervisionSound s) (hr : s.svm.partState = .run) (c : FenceCause) :
    hasCause c s = false := by
  obtain ⟨-, -, -, hnone, -⟩ := h
  have hnone := hnone hr
  unfold anyCause at hnone
  cases c <;> simp_all [hasCause]

/-- R145: a part in RUN whose mode is not OFF starts a fresh period. -/
theorem freshPeriod_run {s : State} (hr : s.svm.partState = .run) (hm : s.mgu.settings.mode ≠ .off) :
    freshPeriod s = s.setSvm (periodStarts s.mgu.settings s.svm) := by
  rw [freshPeriod, if_pos ⟨hr, hm⟩]
  unfold periodStarts
  cases hmode : s.mgu.settings.mode with
  | off => exact absurd hmode hm
  | timeout => rfl
  | window => rfl

/-- R148: a supervision failure is taken by LAPSE. -/
theorem supervisionFailure_taken {s : State} (hs : SupervisionSound s) (hr : s.svm.partState = .run)
    (hm : s.mgu.settings.mode ≠ .off) : FailureTaken s (supervisionFailure s) := by
  unfold FailureTaken supervisionFailure
  cases hl : s.svm.lapse with
  | true =>
    rw [if_pos rfl, if_pos rfl]
    obtain ⟨hfails, hmgu, hsvm, hports, hout, hpins, hmst, hdraws, hpending⟩ :=
      addCause_fences (hs.no_cause hr .supervision) hr
    refine ⟨?_, hports, hout, hpins, hmst, hdraws, hpending, hsvm, hmgu, hfails⟩
    unfold attention
    rw [hmgu, hsvm]
    simp [anyFlag]
  | false =>
    rw [if_neg Bool.false_ne_true, if_neg Bool.false_ne_true,
      freshPeriod_run (s := setLapse true s) hr hm]
    refine ⟨?_, rfl, rfl, rfl, rfl, rfl, rfl, rfl, rfl, rfl, rfl, rfl, rfl⟩
    unfold attention
    exact Bool.or_true _

theorem FailureTaken.later {T : Tag → Prop} {u v w : State} (h : FailureTaken u v) (k : OnlyAnswers T v w)
    (hT : ∀ t, T t → entryOf t u = none) : FailureTaken u w := by
  obtain ⟨hattn, hports, hout, hpins, hmst, hdraws, hpending, hlapse⟩ := h
  obtain ⟨hpsc', hspa', hports', hout', hpins', hdraws', hpending'⟩ := k.media
  obtain ⟨hxmp', hmgu', hmst', hsvm'⟩ := k.management
  refine ⟨k.report.attention.trans hattn, hports'.trans hports, hout'.trans hout, hpins'.trans hpins, hmst'.trans hmst,
    hdraws'.trans hdraws, hpending'.trans hpending, ?_⟩
  split at hlapse
  · next hl =>
    obtain ⟨hsvm, hmgu, hfails⟩ := hlapse
    rw [if_pos hl]
    exact ⟨hsvm'.trans hsvm, hmgu'.trans hmgu, hfails.later k hT⟩
  · next hl =>
    obtain ⟨hsvm, hmgu, hxmp, hpsc, hspa, hbody⟩ := hlapse
    rw [if_neg hl]
    exact ⟨hsvm'.trans hsvm, hmgu'.trans hmgu, hxmp'.trans hxmp, hpsc'.trans hpsc, hspa'.trans hspa, k.body.trans hbody⟩

/-- R148: a failure reads the entries of the moment at which the request that brings it has been placed. -/
theorem FailureTaken.of_start {u v w : State} (h : FailureTaken v w) (hmedia : SameMedia u v)
    (hmanagement : SameManagement u v) (hmve : v.mve = u.mve)
    (hentries : ∀ t e, entryOf t u = some e → entryOf t v = some e) : FailureTaken u w := by
  obtain ⟨hpsc', hspa', hports', hout', hpins', hdraws', hpending'⟩ := hmedia
  obtain ⟨hxmp', hmgu', hmst', hsvm'⟩ := hmanagement
  obtain ⟨hattn, hports, hout, hpins, hmst, hdraws, hpending, hlapse⟩ := h
  refine ⟨hattn, hports.trans hports', hout.trans hout', hpins.trans hpins', hmst.trans hmst', hdraws.trans hdraws',
    hpending.trans hpending', ?_⟩
  rw [hsvm', hmgu'] at hlapse
  split at hlapse
  · next hl =>
    obtain ⟨hsvm, hmgu, hfails⟩ := hlapse
    rw [if_pos hl]
    exact ⟨hsvm, hmgu, hfails.of_start hmve hxmp' hpsc' hspa' hentries⟩
  · next hl =>
    obtain ⟨hsvm, hmgu, hxmp, hpsc, hspa, hbody⟩ := hlapse
    rw [if_neg hl]
    exact ⟨hsvm, hmgu, hxmp.trans hxmp', hpsc.trans hpsc', hspa.trans hspa', hbody.trans (by rw [hmve])⟩

/-! ### Expiries (R146) -/

/-- R145: a timer that runs, runs in a part in RUN whose mode is not OFF. -/
theorem SupervisionSound.running {s : State} (h : SupervisionSound s) (ht : s.svm.timer ≠ .stopped) :
    s.svm.partState = .run ∧ s.mgu.settings.mode ≠ .off := by
  refine Classical.byContradiction fun hnot => ?_
  exact ht (h.1.mpr hnot)

theorem SupervisionSound.failure_taken {s : State} (h : SupervisionSound s) (ht : s.svm.timer ≠ .stopped) :
    FailureTaken s (supervisionFailure s) := by
  obtain ⟨hr, hm⟩ := h.running ht
  exact supervisionFailure_taken h hr hm

theorem phaseUp_same {x : Timer} {f : State → State} {s : State} (h : s.svm.timer = x) : phaseUp x f s = f s := if_pos h

theorem phaseUp_other {x : Timer} {f : State → State} {s : State} (h : s.svm.timer ≠ x) : phaseUp x f s = s := if_neg h

theorem exec_firstExpiry {s u : State} (hs : StandsAt s u) :
    exec .firstExpiry s = .next (finish (phaseUp .first enterSecondHalf u)) :=
  congrArg Host.Outcome.next (event_at hs (phaseUp .first enterSecondHalf))

theorem exec_fullExpiry {s u : State} (hs : StandsAt s u) :
    exec .fullExpiry s = .next (finish (phaseUp .full supervisionFailure u)) :=
  congrArg Host.Outcome.next (event_at hs (phaseUp .full supervisionFailure))

theorem exec_secondExpiry {s u : State} (hs : StandsAt s u) :
    exec .secondExpiry s = .next (finish (phaseUp .second supervisionFailure u)) :=
  congrArg Host.Outcome.next (event_at hs (phaseUp .second supervisionFailure))

/-- Settles O9: the phase of the timer decides, and FULL and SECOND expire as failures. -/
theorem expiriesAct : Obligations.ExpiriesAct := by
  refine fun s u hs => ⟨fun ht => ?_, fun hsound ht => ?_, fun hsound ht => ?_, fun ht => ?_, fun ht => ?_, fun ht => ?_⟩
  · rw [exec_firstExpiry hs, phaseUp_same ht]
    rfl
  · refine ⟨supervisionFailure u, by rw [exec_fullExpiry hs, phaseUp_same ht], hsound.failure_taken ?_⟩
    rw [ht]
    decide
  · refine ⟨supervisionFailure u, by rw [exec_secondExpiry hs, phaseUp_same ht], hsound.failure_taken ?_⟩
    rw [ht]
    decide
  · rw [exec_firstExpiry hs, phaseUp_other ht]
  · rw [exec_fullExpiry hs, phaseUp_other ht]
  · rw [exec_secondExpiry hs, phaseUp_other ht]

/-! ### KEEPALIVE (R147) -/

theorem exec_keepalive {s u : State} {t : Tag} (hs : StandsAt s u) (he : entryOf t u = none) :
    exec (.keepalive t 7) s = .next (finish (answerKeepalive t (clearWithdrawn t u))) := by
  rw [request_event hs rfl, requestArrives_param he rfl]
  rfl

theorem judgeKeepalive_restarts {s : State} (hr : s.svm.partState = .run)
    (h : s.mgu.settings.mode = .timeout ∧ s.svm.timer = .full ∨ s.mgu.settings.mode = .window ∧ s.svm.timer = .second) :
    judgeKeepalive s = (s.setSvm (periodStarts s.mgu.settings s.svm), 0) := by
  obtain ⟨hm, ht⟩ | ⟨hm, ht⟩ := h
  · simp only [judgeKeepalive, hr, if_true, hm, ht]
    rw [freshPeriod_run hr (by rw [hm]; decide)]
  · simp only [judgeKeepalive, hr, if_true, hm, ht]
    rw [freshPeriod_run hr (by rw [hm]; decide)]

theorem judgeKeepalive_ignored {s : State} (h : s.svm.partState ≠ .run ∨ s.mgu.settings.mode = .off) :
    judgeKeepalive s = (s, 2) := by
  unfold judgeKeepalive
  by_cases hr : s.svm.partState = .run
  · rw [if_pos hr, h.resolve_left fun x => x hr]
  · rw [if_neg hr]

theorem judgeKeepalive_early {s : State} (hr : s.svm.partState = .run) (hm : s.mgu.settings.mode = .window)
    (ht : s.svm.timer = .first) : judgeKeepalive s = (supervisionFailure s, 1) := by
  simp only [judgeKeepalive, hr, if_true, hm, ht]

/-- R147: a KEEPALIVE in FIRST is a supervision failure, and its CMPL is the last of its event. -/
theorem keepalive_early {s u : State} {t : Tag} (hs : StandsAt s u) (he : entryOf t u = none)
    (hsound : SupervisionSound u) (ht : u.svm.timer = .first) :
    ∃ w, exec (.keepalive t 7) s = .next (finish w) ∧ FailureTaken u w ∧
      w.ulc.tx.getLast? = some (.cmpl ⟨t, .good, .none, true, w.svm.partState, 0, u.xmp.generation, 1⟩ false) := by
  obtain ⟨hr, hm⟩ := hsound.running (by rw [ht]; decide)
  have hwindow : u.mgu.settings.mode = .window := hsound.2.2.1 (.inl ht)
  have hfails : FailureTaken u (supervisionFailure (clearWithdrawn t u)) :=
    (supervisionFailure_taken (s := clearWithdrawn t u) hsound hr hm).of_start ⟨rfl, rfl, rfl, rfl, rfl, rfl, rfl⟩
      ⟨rfl, rfl, rfl, rfl⟩ rfl fun _ _ h => h
  obtain ⟨-, -, hgen, -⟩ := supervisionFailure_keeps (clearWithdrawn t u)
  have hattn : attention (supervisionFailure (clearWithdrawn t u)) = true := hfails.1
  have hjudge : judgeKeepalive (clearWithdrawn t u) = (supervisionFailure (clearWithdrawn t u), 1) :=
    judgeKeepalive_early hr hwindow ht
  refine ⟨sendCmpl t .good .none 0 1 (supervisionFailure (clearWithdrawn t u)), ?_,
    hfails.later (.sendCmpl ..) fun _ h => h.elim, ?_⟩
  · rw [exec_keepalive hs he, answerKeepalive, hjudge]
  · generalize supervisionFailure (clearWithdrawn t u) = v at hgen hattn
    have hgen' : v.xmp.generation = u.xmp.generation := hgen
    simp only [sendCmpl, handFrame, State.setUlc, completionOf, hattn, hgen', List.getLast?_concat]
    rfl

/-- Settles O8: a restart and a KEEPALIVE without effect are answered as the part stands, one in FIRST after the
failure. -/
theorem keepaliveJudged : Obligations.KeepaliveJudged := by
  intro s u t detail hs he mode restarts ignored
  refine ⟨fun hcase => ?_, fun hsound ht => keepalive_early hs he hsound ht⟩
  obtain ⟨⟨hr, hphase⟩, rfl⟩ | ⟨hignored, rfl⟩ := hcase
  · rw [exec_keepalive hs he, answerKeepalive, judgeKeepalive_restarts (s := clearWithdrawn t u) hr hphase]
    rfl
  · rw [exec_keepalive hs he, answerKeepalive, judgeKeepalive_ignored (s := clearWithdrawn t u) hignored]
    rfl

end Sys2Proof.Machine
end

section
/-! SUPPORT. SETUP as a supervision failure and as new settings (R150, R165); the four ways to fail (R148); the write
protection line (R151 to R154); and a CANCEL that ends one request or one move (R43, R45). -/

namespace Sys2Proof.Machine

/-! ### SETUP -/

theorem takeManagement_entries {t : Tag} {k : Kind} {p0 p1 p2 : Word} {u : State} (he : entryOf t u = none) (t' : Tag)
    (e : Entry) (h : entryOf t' u = some e) : entryOf t' (takeManagement t k p0 p1 p2 u) = some e := by
  have hne : t' ≠ t := by
    rintro rfl
    nomatch he.symm.trans h
  exact (takeEntry_entryOf_ne hne _ u).trans h

theorem retimes_iff {set : Settings} {s : State} : retimes set s = true ↔
    s.svm.partState = .run ∧ s.mgu.settings.mode ≠ .off ∧
      (set.mode ≠ s.mgu.settings.mode ∨ set.periodCode ≠ s.mgu.settings.periodCode) := by
  simp [retimes, and_assoc]

theorem exec_setup {s u : State} {t : Tag} {a b c : Word} (hs : StandsAt s u) (ht : TakenAtOnce t u) :
    exec (.setup t 7 a b c) s = .next (finish (mguSetup t (freshEntry .active .setup 7 0 0 a b c [])
      (takeManagement t .setup a b c u))) := exec_taken (k := .setup) (p0 := a) (p1 := b) (p2 := c) hs ht rfl rfl

/-- R150: a SETUP that would retime a running supervision is a failure, and is refused after it. -/
theorem setup_retimes {s u : State} {t : Tag} {a b c : Word} {set : Settings} (hs : StandsAt s u)
    (hsound : SupervisionSound u) (ht : TakenAtOnce t u) (hset : setupSettings a b c = some set)
    (hr : u.svm.partState = .run) (hm : u.mgu.settings.mode ≠ .off)
    (hd : set.mode ≠ u.mgu.settings.mode ∨ set.periodCode ≠ u.mgu.settings.periodCode) :
    ∃ w, exec (.setup t 7 a b c) s = .next (finish w) ∧ FailureTaken u w ∧ entryOf t w = none ∧
      (handed w).getLast? =
        some (.cmpl ⟨t, .refused, .supervised, true, w.svm.partState, 0, u.xmp.generation, 0⟩ false) := by
  obtain ⟨he, -⟩ := id ht
  have hfails : FailureTaken u (supervisionFailure (takeManagement t .setup a b c u)) :=
    (supervisionFailure_taken (s := takeManagement t .setup a b c u) hsound hr hm).of_start
      ⟨rfl, rfl, rfl, rfl, rfl, rfl, rfl⟩ ⟨rfl, rfl, rfl, rfl⟩ rfl (takeManagement_entries he)
  obtain ⟨-, -, hgen, -⟩ := supervisionFailure_keeps (takeManagement t .setup a b c u)
  have hretimes : retimes set (takeManagement t .setup a b c u) = true := retimes_iff.mpr ⟨hr, hm, hd⟩
  have hact : mguSetup t (freshEntry .active .setup 7 0 0 a b c []) (takeManagement t .setup a b c u) =
      complete t .refused .supervised 0 0 (supervisionFailure (takeManagement t .setup a b c u)) := by
    simp only [mguSetup, freshEntry, hset, hretimes, if_true]
  generalize supervisionFailure (takeManagement t .setup a b c u) = v at hfails hgen hact
  have hgen' : v.xmp.generation = u.xmp.generation := hgen
  obtain ⟨hhanded, hnone, -⟩ := complete_answers t .refused .supervised 0 0 v
  have htaken := hfails.later (.complete t .refused .supervised 0 0 v) fun t' h => h ▸ he
  refine ⟨_, by rw [exec_setup hs ht, hact], htaken, hnone, ?_⟩
  have hattn : attention (complete t .refused .supervised 0 0 v) = true := htaken.1
  rw [hhanded, List.getLast?_concat, completionOf, hattn, complete_xmp, hgen']
  rfl

/-- R150: the supervision state of new settings: a mode turned on in RUN starts a fresh period. -/
def setupSvm (set : Settings) (u : State) : Svm :=
  if u.svm.partState = .run ∧ u.mgu.settings.mode = .off ∧ set.mode ≠ .off then periodStarts set u.svm else u.svm

/-- R150, R165: a SETUP that is taken. -/
theorem mguSetup_good {t : Tag} {a b c : Word} {set : Settings} {v : State} (hset : setupSettings a b c = some set)
    (hr : retimes set v = false) :
    mguSetup t (freshEntry .active .setup 7 0 0 a b c []) v = complete t .good .none 0 0
      (v.setManagement v.xmp { v.mgu with settings := set } v.mst (setupSvm set v)) := by
  have hkeep : v.setManagement v.xmp { v.mgu with settings := set } v.mst v.svm =
      v.setMgu { v.mgu with settings := set } := rfl
  simp only [mguSetup, freshEntry, hset, hr, Bool.false_eq_true, if_false, setupSvm]
  by_cases hon : v.mgu.settings.mode = .off ∧ set.mode ≠ .off
  · rw [if_pos hon]
    by_cases hrun : v.svm.partState = .run
    · rw [if_pos ⟨hrun, hon⟩, freshPeriod_run (s := v.setMgu { v.mgu with settings := set }) hrun hon.2]
      rfl
    · have hstay : freshPeriod (v.setMgu { v.mgu with settings := set }) = v.setMgu { v.mgu with settings := set } :=
        if_neg fun h => hrun h.1
      rw [if_neg fun h => hrun h.1, hstay, hkeep]
  · rw [if_neg hon, if_neg fun h => hon h.2, hkeep]

/-- Settles O12: SETUP's words name settings or none, and the settings retime the supervision or do not. -/
theorem setupJudged : Obligations.SetupJudged := by
  refine fun s u t a b c hs hsound ht => ⟨fun hnone => ?_, fun set hset => ?_⟩
  · have hset : setupSettings a b c = none := by
      cases h : setupSettings a b c with
      | none => rfl
      | some set => exact absurd (setupSettings_iff.mp h) (hnone set)
    refine exec_refused (k := .setup) (p0 := a) (p1 := b) (p2 := c) hs ht rfl rfl ?_
    simp only [mguActs, freshEntry, mguSetup, hset]
  · intro held supervised
    have hset' := setupSettings_iff.mpr hset
    refine ⟨fun ⟨hr, hm, hd⟩ => setup_retimes hs hsound ht hset' hr hm hd, fun hnot => ?_⟩
    have hretimes : retimes set (takeManagement t .setup a b c u) = false := by
      rw [← Bool.not_eq_true, retimes_iff]
      exact hnot
    have hact : mguActs t (freshEntry .active .setup 7 0 0 a b c []) (takeManagement t .setup a b c u) =
        complete t .good .none 0 0 ((takeManagement t .setup a b c u).setManagement u.xmp
          { u.mgu with settings := set } u.mst (setupSvm set u)) := mguSetup_good hset' hretimes
    obtain ⟨w, hexec, hanswer, hmedia, hxmp, hmgu, hmst, hsvm⟩ :=
      exec_answered (.setup t 7 a b c) .setup a b c hs ht rfl rfl hact
    exact ⟨w, hexec, hanswer, hmedia, hxmp, hmst, hmgu, hsvm⟩

/-! ### The four ways to fail (R148) -/

/-- Settles O10: a timer that expires, an early KEEPALIVE, and a SETUP that retimes. -/
theorem Settled.supervisionFailure : Obligations.SupervisionFailure := by
  intro s u c hs hsound hr hm hfails
  have htaken := supervisionFailure_taken hsound hr hm
  cases c with
  | fullExpiry => exact ⟨_, by rw [exec_fullExpiry hs, phaseUp_same hfails], htaken⟩
  | secondExpiry => exact ⟨_, by rw [exec_secondExpiry hs, phaseUp_same hfails], htaken⟩
  | keepalive t unit =>
    obtain ⟨rfl, he, ht⟩ := hfails
    obtain ⟨w, hexec, htaken, -⟩ := keepalive_early hs he hsound ht
    exact ⟨w, hexec, htaken⟩
  | setup t unit a b c =>
    obtain ⟨rfl, ht, set, hset, hd⟩ := hfails
    obtain ⟨w, hexec, htaken, -⟩ := setup_retimes hs hsound ht (setupSettings_iff.mpr hset) hr hm hd
    exact ⟨w, hexec, htaken⟩
  | _ => exact hfails.elim

/-! ### The write protection line (R151 to R154) -/

theorem exec_wpnAsserted {s u : State} (hs : StandsAt s u) :
    exec .wpnAsserted s = .next (setWpn true (finish (addCause .pin u))) :=
  congrArg (fun t => Host.Outcome.next (setWpn true t)) (event_at hs (addCause .pin))

theorem exec_wpnReleased {s u : State} (hs : StandsAt s u) :
    exec .wpnReleased s = .next (setWpn false (finish (removeCause .pin u))) :=
  congrArg (fun t => Host.Outcome.next (setWpn false t)) (event_at hs (removeCause .pin))

/-- Settles O37: PIN is present or not, and the part is RUN, FENCED by PIN alone, or neither. -/
theorem writePinChanges : Obligations.WritePinChanges := by
  intro s u hs hsound level noted
  refine ⟨fun hpin => ?_, fun hpin => ?_, fun hpin hr => ?_, fun hpin hr => ?_, fun hpin => ?_⟩
  · rw [exec_wpnAsserted hs, addCause_present (c := .pin) hpin]
    rfl
  · rw [exec_wpnReleased hs, removeCause_absent (c := .pin) hpin]
    rfl
  · have hadd : addCause .pin u = causeNoted .pin u := addCause_other (c := .pin) (s := u) hpin hr
    refine (exec_wpnAsserted hs).trans (congrArg (fun v => Host.Outcome.next (level true (finish v))) ?_)
    rw [hadd]
    rfl
  · obtain ⟨hfails, hmgu, hsvm, hports, -, -, hmst, -, -⟩ := addCause_fences (c := .pin) hpin hr
    have hsupervision : u.svm.causes.supervision = false := hsound.no_cause hr .supervision
    have hcauses : putCause .pin true u.svm.causes = ⟨false, true⟩ := by rw [putCause, ← hsupervision]
    rw [hcauses] at hsvm
    exact ⟨addCause .pin u, exec_wpnAsserted hs, hsvm, hmgu, hfails, hports, hmst⟩
  · intro freed
    refine (exec_wpnReleased hs).trans (congrArg (fun v => Host.Outcome.next (level false (finish v))) ?_)
    have hfreed : (u.svm.partState = .fenced ∧ anyCause (putCause .pin false u.svm.causes) = false) ↔ freed := by
      simp [freed, anyCause, putCause]
    rw [removeCause_eq (c := .pin) hpin]
    simp only [hfreed]
    rfl

end Sys2Proof.Machine
end

section
/-! SUPPORT. CANCEL (R43 to R45, R48): a request that waits, a move, a MAP STAGE, and the draining of a request. -/

namespace Sys2Proof.Machine

/-! ### What operations on requests and pieces alone leave -/

/-- Operations on requests and pieces keep the maps, MGU, the store, supervision, the ports, the lines' record, and
whether a move is active. -/
structure OnTraffic (u w : State) : Prop where
  management : SameManagement u w
  moves : w.mve.isSome = u.mve.isSome
  ports : w.ports = u.ports
  out : w.out = u.out

theorem OnTraffic.of_frames {u w : State} (hc : w.control = u.control) (hi : w.inner = u.inner) (hp : w.ports = u.ports) :
    OnTraffic u w where
  management := ⟨congrArg (·.2.2.1) hi, congrArg (·.1) hi, congrArg (·.2.2.1) hc, congrArg (·.2.2.2.1) hc⟩
  moves := congrArg (·.2.2.2) hi
  ports := hp
  out := congrArg (·.2.1) hi

/-- R35, R44, R65, R176: pieces that ends have taken are dropped with what they held. -/
theorem PiecesDropped.of_gone {S : PieceId → Prop} {t : Tag} {id : Option PieceId} {drops : Piece → Bool} {u w : State}
    (h : Core S u w) (hgone : ∀ j r, some j ≠ id → j ∉ u.psc.waiting → pieceOf j u = some r → r.owner = .tag t →
      drops r = true → pieceOf j w = none) : PiecesDropped t id drops u w := by
  intro j r hj hwait hr ho hd
  obtain ⟨hpiece, hframes⟩ := h.gone j r hr (hgone j r hj hwait hr ho hd)
  exact ⟨hpiece, fun g hg ht i hi hf => h.grants g hg (fun hw => hpiece.2.2.2.2 g hw ht) j r ht hr i hi hf, hframes⟩

theorem piecesWhere_length {p : Piece → Bool} {u v : State} (h : ∀ j, pieceOf j v = pieceOf j u) :
    (piecesWhere p v).length = allPieces.countP fun j => (pieceOf j u).any p := by
  unfold piecesWhere
  rw [List.countP_eq_length_filter]
  congr 1
  exact List.filter_congr fun j _ => by rw [h j]

/-! ### The lists of requests -/

theorem detachPiece_lists (id : PieceId) (s : State) : (detachPiece id s).rqt = s.rqt := detachPiece_rqt id s

theorem modEntry_lists (t : Tag) (f : Entry → Entry) (s : State) :
    (modEntry t f s).rqt.active = s.rqt.active ∧ (modEntry t f s).rqt.flushing = s.rqt.flushing := ⟨rfl, rfl⟩

theorem dropPiece_lists (t : Tag) (id : PieceId) (s : State) :
    (dropPiece t id s).rqt.active = s.rqt.active ∧ (dropPiece t id s).rqt.flushing = s.rqt.flushing := by
  unfold dropPiece
  split
  · exact ⟨rfl, rfl⟩
  · obtain ⟨h1, h2⟩ := modEntry_lists t _ (detachPiece id s)
    rw [detachPiece_lists] at h1 h2
    exact ⟨h1, h2⟩

theorem dropPieces_lists (t : Tag) (q : Piece → Bool) (s : State) :
    (dropPieces t q s).rqt.active = s.rqt.active ∧ (dropPieces t q s).rqt.flushing = s.rqt.flushing := by
  unfold dropPieces
  generalize piecesWhere _ s = l
  induction l generalizing s with
  | nil => exact ⟨rfl, rfl⟩
  | cons id l ih =>
    obtain ⟨h1, h2⟩ := ih (dropPiece t id s)
    obtain ⟨h3, h4⟩ := dropPiece_lists t id s
    exact ⟨h1.trans h3, h2.trans h4⟩

theorem notMem_leaveSet {α : Type} [DecidableEq α] (a : α) (l : List α) : a ∉ leaveSet a l := by
  simp [leaveSet]

theorem leaveSet_subset {α : Type} [DecidableEq α] {a b : α} {l : List α} (h : b ∈ leaveSet a l) : b ∈ l :=
  (List.mem_filter.mp h).1

/-- R41: a completion takes tags off the lists only. -/
theorem complete_lists (t t' : Tag) (o : ReqOutcome) (c : Cause) (r d : Nat) (s : State) :
    (t' ∈ (complete t o c r d s).rqt.active → t' ∈ s.rqt.active) ∧
      (t' ∈ (complete t o c r d s).rqt.flushing → t' ∈ s.rqt.flushing) := by
  obtain ⟨-, -, -, -, -, ha, -, hf, -⟩ := complete_answers t o c r d s
  rw [ha, hf]
  exact ⟨leaveSet_subset, leaveSet_subset⟩

theorem tryComplete_lists (t t' : Tag) (s : State) :
    (t' ∈ (tryComplete t s).rqt.active → t' ∈ s.rqt.active) ∧
      (t' ∈ (tryComplete t s).rqt.flushing → t' ∈ s.rqt.flushing) := by
  unfold tryComplete completeData completeFlush
  repeat' split
  all_goals
    first
    | exact complete_lists ..
    | exact ⟨id, id⟩

/-! ### A FLUSH that is stopped (R48) -/

/-- R48: one port of a FLUSH is dropped. -/
def portDropped (p : PortId) (x : PortId × FlMark) : PortId × FlMark := if x.1 = p then (x.1, .dropped) else x

theorem dropPiece_flush {t : Tag} {id : PieceId} {q : Piece} {e : Entry} {s : State} (hq : pieceOf id s = some q)
    (he : entryOf t s = some e) (hk : e.kind = .flush) : entryOf t (dropPiece t id s) =
      some { e with notEnded := e.notEnded - 1, flPorts := e.flPorts.map (portDropped q.port) } := by
  have he' : entryOf t (detachPiece id s) = some e := (detachPiece_entryOf id t s).trans he
  simp only [dropPiece, hq]
  rw [entryOf_modEntry he', if_pos hk]
  rfl

/-- R48: the ports of some pieces are dropped. -/
def portsDropped (s : State) (l : List PieceId) (x : PortId × FlMark) : PortId × FlMark :=
  if l.any (fun j => (pieceOf j s).any (·.port = x.1)) then (x.1, .dropped) else x

theorem portsDropped_cons {id : PieceId} {q : Piece} {l : List PieceId} {s v : State} (hq : pieceOf id s = some q)
    (h : ∀ j ∈ l, pieceOf j v = pieceOf j s) (x : PortId × FlMark) :
    portsDropped v l (portDropped q.port x) = portsDropped s (id :: l) x := by
  have hany : ∀ y : PortId, (l.any fun j => (pieceOf j v).any (·.port = y)) =
      l.any fun j => (pieceOf j s).any (·.port = y) := by
    intro y
    rw [Bool.eq_iff_iff, List.any_eq_true, List.any_eq_true]
    exact exists_congr fun j => and_congr_right fun hj => by rw [h j hj]
  unfold portsDropped portDropped
  rw [List.any_cons, hq, Option.any_some]
  by_cases hp : x.1 = q.port
  · have hself : decide (q.port = x.1) = true := decide_eq_true hp.symm
    rw [if_pos hp, hself, Bool.true_or, if_pos rfl]
    split <;> rfl
  · have hself : decide (q.port = x.1) = false := decide_eq_false fun h => hp h.symm
    rw [if_neg hp, hself, Bool.false_or, hany]

theorem dropList_flush {t : Tag} (l : List PieceId) (hl : l.Nodup) {e : Entry} {s : State} (he : entryOf t s = some e)
    (hk : e.kind = .flush) (hsome : ∀ id ∈ l, (pieceOf id s).isSome) :
    entryOf t (l.foldl (fun s id => dropPiece t id s) s) =
      some { e with notEnded := e.notEnded - l.length, flPorts := e.flPorts.map (portsDropped s l) } := by
  induction l generalizing e s with
  | nil =>
    have hid : e.flPorts.map (portsDropped s []) = e.flPorts := by
      calc e.flPorts.map (portsDropped s []) = e.flPorts.map id := List.map_congr_left fun _ _ => rfl
        _ = e.flPorts := List.map_id _
    rw [hid]
    exact he
  | cons id l ih =>
    obtain ⟨hid, hl'⟩ := List.nodup_cons.mp hl
    obtain ⟨q, hq⟩ := Option.isSome_iff_exists.mp (hsome id (List.mem_cons_self ..))
    have hother : ∀ j ∈ l, pieceOf j (dropPiece t id s) = pieceOf j s := fun j hj =>
      dropPiece_other (ne_of_mem_of_not_mem hj hid) s
    have hrest := ih hl' (dropPiece_flush hq he hk) hk fun j hj => by
      rw [hother j hj]
      exact hsome j (List.mem_cons_of_mem id hj)
    refine hrest.trans ?_
    have hports : (e.flPorts.map (portDropped q.port)).map (portsDropped (dropPiece t id s) l) =
        e.flPorts.map (portsDropped s (id :: l)) := by
      rw [List.map_map]
      exact List.map_congr_left fun x _ => portsDropped_cons hq hother x
    simp only [hports, List.length_cons, Nat.sub_sub, Nat.add_comm 1]

/-- R48: the part of a FLUSH that is stopped before its QUEUED pieces end. -/
def uncutDropped (t : Tag) (s : State) : State :=
  let v := modEntry t (fun e => {
    e with flPorts := e.flPorts.map fun q => if q.2 = .uncut then (q.1, .dropped) else q }) s
  v.setRqt { v.rqt with flushing := leaveSet t v.rqt.flushing }

theorem stopFlush_eq (t : Tag) (s : State) : stopFlush t s = dropPieces t (fun p => p.state = .queued) (uncutDropped t s) :=
  rfl

theorem uncutDropped_pieceOf (t : Tag) (s : State) (j : PieceId) : pieceOf j (uncutDropped t s) = pieceOf j s := rfl

theorem uncutDropped_entryOf {t : Tag} {e : Entry} {s : State} (h : entryOf t s = some e) :
    entryOf t (uncutDropped t s) =
      some { e with flPorts := e.flPorts.map fun q => if q.2 = .uncut then (q.1, .dropped) else q } :=
  entryOf_modEntry h _

/-- R48: a FLUSH that is stopped, its piece `id` gone. -/
theorem stopFlush_entry {t : Tag} {id : Option PieceId} {e : Entry} {u v : State} (he : entryOf t v = some e)
    (hk : e.kind = .flush) (h1 : ∀ j, some j = id → pieceOf j v = none)
    (h2 : ∀ j, some j ≠ id → pieceOf j v = pieceOf j u) :
    entryOf t (stopFlush t v) = some (flushStopped t id u e) := by
  have hleaves : piecesWhere (fun p => p.owner = .tag t && p.state = .queued) (uncutDropped t v) = allPieces.filter fun j =>
      some j ≠ id && (pieceOf j u).any fun q => q.owner = .tag t && q.state = .queued := by
    refine List.filter_congr fun j _ => ?_
    rw [uncutDropped_pieceOf]
    by_cases hj : some j = id
    · simp [h1 j hj, hj]
    · simp [h2 j hj, hj]
  have hdrop := dropList_flush _ (piecesWhere_nodup (fun p => p.owner = .tag t && p.state = .queued) (uncutDropped t v))
    (uncutDropped_entryOf he) hk fun j hj => by
      obtain ⟨q, hq, -⟩ := (mem_piecesWhere _ _ j).mp hj
      rw [hq]
      rfl
  rw [stopFlush_eq]
  refine hdrop.trans ?_
  rw [hleaves]
  unfold flushStopped
  dsimp only
  rw [List.countP_eq_length_filter, List.map_map]
  congr 2
  refine List.map_congr_left fun x _ => ?_
  have hany (y : PortId) : ((allPieces.filter fun j =>
      some j ≠ id && (pieceOf j u).any fun q => q.owner = .tag t && q.state = .queued).any fun j =>
        (pieceOf j (uncutDropped t v)).any (·.port = y)) = allPieces.any fun j =>
      (some j ≠ id && (pieceOf j u).any fun q => q.owner = .tag t && q.state = .queued) &&
        (pieceOf j u).any (·.port = y) := by
    rw [List.any_filter]
    congr 1
    funext j
    rw [uncutDropped_pieceOf]
    by_cases hj : some j = id
    · simp [hj]
    · rw [h2 j hj]
  rw [Function.comp_apply]
  unfold portsDropped
  by_cases huncut : x.2 = .uncut
  · rw [if_pos huncut]
    refine Eq.trans ?_ (if_pos (.inl huncut)).symm
    split <;> rfl
  · rw [if_neg huncut, hany]
    by_cases hx : (allPieces.any fun j =>
      (some j ≠ id && (pieceOf j u).any fun q => q.owner = .tag t && q.state = .queued) &&
        (pieceOf j u).any (·.port = x.1)) = true
    · rw [if_pos hx, if_pos (.inr hx)]
    · rw [if_neg hx, if_neg (not_or.mpr ⟨huncut, hx⟩)]

end Sys2Proof.Machine
end

section
/-! SUPPORT. CANCEL (R43 to R45, R48), by what it finds under the tag. -/

namespace Sys2Proof.Machine

theorem exec_cancel {s u : State} {t : Tag} (hs : StandsAt s u) : exec (.cancel t) s = .next (finish (cancelArrives t u)) :=
  congrArg Host.Outcome.next (event_at hs (cancelArrives t))

/-! ### Requests that wait, moves and stages -/

theorem cancelArrives_free {t : Tag} {u : State} (h : entryOf t u = none) : cancelArrives t u = u := by
  simp only [cancelArrives, h]

theorem cancelArrives_draining {t : Tag} {e : Entry} {u : State} (h : entryOf t u = some e) (hs : e.state = .draining) :
    cancelArrives t u = u := by
  simp only [cancelArrives, h, hs]

theorem cancelArrives_waiting {t : Tag} {e : Entry} {u : State} (h : entryOf t u = some e)
    (hs : e.state = .queued ∨ e.state = .barrier) :
    cancelArrives t u = complete t .cancelled .none (if namesBlocks e.kind then e.count else 0) 0 u := by
  obtain hs | hs := hs <;> simp only [cancelArrives, h, hs]

theorem cancelArrives_active {t : Tag} {e : Entry} {u : State} (h : entryOf t u = some e) (hs : e.state = .active) :
    cancelArrives t u = if namesBlocks e.kind then cancelData t u
      else if e.kind = .flush then cancelFlush t u else cancelManagement t e.kind u := by
  simp only [cancelArrives, h, hs]

theorem namesBlocks_iff (k : Kind) : namesBlocks k = true ↔ k ∈ [Kind.read, .write, .verify] := by
  cases k <;> simp [namesBlocks]

theorem cancelArrives_management {t : Tag} {e : Entry} {u : State} (h : entryOf t u = some e) (hs : e.state = .active)
    (hk : e.kind ∉ [Kind.read, .write, .verify, .flush]) : cancelArrives t u = cancelManagement t e.kind u := by
  have hnames : ¬namesBlocks e.kind = true := fun hn =>
    hk (List.mem_append_left [Kind.flush] ((namesBlocks_iff e.kind).mp hn))
  have hflush : e.kind ≠ .flush := fun hf => hk (by rw [hf]; decide)
  rw [cancelArrives_active h hs, if_neg hnames, if_neg hflush]

/-- R45: a management request that is neither the move nor a stage that waits goes on. -/
theorem cancelManagement_other {t : Tag} {k : Kind} {u : State} (h1 : ¬(k = .move ∧ ∃ m, u.mve = some m ∧ m.tag = t))
    (h2 : ¬(k = .mapStage ∧ u.mgu.exec = .dataIn)) : cancelManagement t k u = u := by
  cases k <;> simp only [cancelManagement]
  case move =>
    have hany : ¬(u.mve.any fun m => decide (m.tag = t)) = true := fun h => h1 ⟨rfl, by
      obtain ⟨m, hm, ht⟩ := (Option.any_eq_true ..).mp h
      exact ⟨m, hm, of_decide_eq_true ht⟩⟩
    exact if_neg hany
  case mapStage => exact if_neg fun h => h2 ⟨rfl, h⟩

/-- R45, R110: the MOVE is cancelled. -/
theorem cancelManagement_move {t : Tag} {m : Move} {u : State} (hm : u.mve = some m) (ht : m.tag = t) :
    cancelManagement t .move u = abortMove .cancelled .none 0 true u := by
  have hany : (u.mve.any fun m => decide (m.tag = t)) = true := by rw [hm]; exact decide_eq_true ht
  exact if_pos hany

/-- R41, R119: a request whose grants have been withdrawn is answered, and MGU is idle. -/
theorem idle_answers {t : Tag} {u v : State} (o : ReqOutcome) (c : Cause) (d : Nat) (hulc : v = u.setUlc v.ulc)
    (hhanded : handed v = handed u) (hgrants : v.ulc.grants.filter (·.tag ≠ t) = u.ulc.grants.filter (·.tag ≠ t))
    (hwithdrawn : ∀ t' : Tag, t' ≠ t → v.ulc.withdrawn[t'] = u.ulc.withdrawn[t']) :
    Answers t o c 0 d u (complete t o c 0 d (mguIdle v)) ∧ SameMedia u (complete t o c 0 d (mguIdle v)) ∧
      (complete t o c 0 d (mguIdle v)).mgu = { u.mgu with exec := .idle, executing := none, buffer := #v[none, none] } ∧
      (complete t o c 0 d (mguIdle v)).xmp = u.xmp ∧ (complete t o c 0 d (mguIdle v)).mst = u.mst ∧
      (complete t o c 0 d (mguIdle v)).svm = u.svm := by
  have hidle : mguIdle v = (u.setUlc v.ulc).setMgu
      { u.mgu with exec := .idle, executing := none, buffer := #v[none, none] } := by
    calc mguIdle v = mguIdle (u.setUlc v.ulc) := by rw [← hulc]
      _ = _ := rfl
  have hanswer := complete_answers t o c 0 d (mguIdle v)
  have hsame : SameMedia u (mguIdle v) := by
    rw [hidle]
    exact ⟨rfl, rfl, rfl, rfl, rfl, rfl, rfl⟩
  have hentry (t' : Tag) : entryOf t' (mguIdle v) = entryOf t' u := by rw [hidle]; rfl
  have hrqt : (mguIdle v).rqt = u.rqt := by rw [hidle]; rfl
  have hmve : (mguIdle v).mve = u.mve := by rw [hidle]; rfl
  refine ⟨?_, hsame.complete .., ?_, ?_, ?_, ?_⟩
  · exact hanswer.from hhanded (fun t' _ => hentry t') (by rw [hrqt]) (by rw [hrqt]) (by rw [hrqt]) (by rw [hrqt])
      (by rw [hrqt]) hgrants hwithdrawn hmve
  · rw [complete_mgu, hidle]
    rfl
  · rw [complete_xmp, hidle]
    rfl
  · rw [complete_mst, hidle]
    rfl
  · rw [complete_svm, hidle]
    rfl

/-- R45, R119: a MAP STAGE that waits for its data is cancelled, and staging is as it was. -/
theorem cancelStage_answers (t : Tag) (u : State) :
    Answers t .cancelled .none 0 0 u (cancelStage t u) ∧ SameMedia u (cancelStage t u) ∧
      (cancelStage t u).mgu = { u.mgu with exec := .idle, executing := none, buffer := #v[none, none] } ∧
      (cancelStage t u).xmp = u.xmp ∧ (cancelStage t u).mst = u.mst ∧ (cancelStage t u).svm = u.svm := by
  refine idle_answers .cancelled .none 0 (withdrawGrants_ulc ..) (withdrawGrants_handed ..) ?_
    fun t' h => withdrawGrants_withdrawn t t' h u
  rw [withdrawGrants_grants, List.filter_filter]
  exact List.filter_congr fun g _ => by simp

/-- Settles O29: the states of the entry, and of an active one the move and the stage. -/
theorem cancelTaken : Obligations.CancelTaken := by
  refine fun s u t hs => ⟨fun he => by rw [exec_cancel hs, cancelArrives_free he], fun e he => ?_⟩
  intro held staging management
  refine ⟨fun hcase => ?_, fun hwait => ?_, fun hactive hheld => ?_, fun hactive hstaging => ?_⟩
  · obtain hd | ⟨hactive, hmgmt, hheld, hstaging⟩ := hcase
    · rw [exec_cancel hs, cancelArrives_draining he hd]
    · rw [exec_cancel hs, cancelArrives_management he hactive hmgmt, cancelManagement_other hheld hstaging]
  · have hcount : (if namesBlocks e.kind then e.count else 0) =
        if e.kind ∈ [Kind.read, .write, .verify] then e.count else 0 := by simp only [namesBlocks_iff]
    refine ⟨_, by rw [exec_cancel hs, cancelArrives_waiting he hwait, hcount], complete_answers ..,
      SameMedia.complete (v := u) ⟨rfl, rfl, rfl, rfl, rfl, rfl, rfl⟩ ..,
      SameManagement.complete (v := u) ⟨rfl, rfl, rfl, rfl⟩ ..⟩
  · obtain ⟨hk, m, hm, ht⟩ := hheld
    obtain ⟨hidle, hmap, hanswered, halone⟩ := abortMove_aborted hm .cancelled .none 0
    have hmgmt : e.kind ∉ [Kind.read, .write, .verify, .flush] := by rw [hk]; decide
    have hcontrol := abortMove_control .cancelled .none 0 true u
    have houter := abortMove_outer .cancelled .none 0 true u
    refine ⟨abortMove .cancelled .none 0 true u, ?_, ht ▸ hanswered, hidle, hmap, congrArg (·.1) houter,
      congrArg (·.2.2.1) hcontrol, congrArg (·.2.2.2.1) hcontrol, abortMove_ports .., congrArg (·.2) houter,
      fun m' hm' => Option.some.inj (hm.symm.trans hm') ▸ halone⟩
    rw [exec_cancel hs, cancelArrives_management he hactive hmgmt, hk, cancelManagement_move hm ht]
  · obtain ⟨hk, hdata⟩ := hstaging
    have hmgmt : e.kind ∉ [Kind.read, .write, .verify, .flush] := by rw [hk]; decide
    have hstage : cancelManagement t .mapStage u = cancelStage t u := if_pos hdata
    refine ⟨cancelStage t u, ?_, cancelStage_answers t u⟩
    rw [exec_cancel hs, cancelArrives_management he hactive hmgmt, hk, hstage]

/-! ### Requests that drain (R44, R48) -/

/-- R44: a READ, WRITE or VERIFY with its cancel taken, off the active list. -/
def dataCancelled (t : Tag) (u : State) : State := trimActive t (modEntry t cancelled u)

theorem trimActive_pieceOf (t : Tag) (s : State) (j : PieceId) : pieceOf j (trimActive t s) = pieceOf j s := by
  unfold trimActive
  repeat' split
  all_goals rfl

theorem trimActive_notMem {t : Tag} {e : Entry} {s : State} (h : entryOf t s = some e) (hc : cuttable e = false) :
    t ∉ (trimActive t s).rqt.active := by
  simp only [trimActive, h, hc, Bool.false_eq_true, if_false]
  exact notMem_leaveSet t _

section Data

variable {t : Tag} {e : Entry} {u : State}

theorem dataCancelled_entryOf (h : entryOf t u = some e) : entryOf t (dataCancelled t u) = some (cancelled e) := by
  rw [dataCancelled, trimActive_entryOf]
  exact entryOf_modEntry h cancelled

theorem dataCancelled_pieceOf (j : PieceId) : pieceOf j (dataCancelled t u) = pieceOf j u := trimActive_pieceOf ..

theorem cancelData_eq : cancelData t u =
    tryComplete t (dropPieces t (fun p => p.state = .queued || p.state = .filling) (dataCancelled t u)) := rfl

theorem later_cancelled (e : Entry) : Later e (cancelled e) := { Later.refl e with state := fun _ => .inr rfl }

theorem Ends.cancelData : Ends u (cancelData t u) := by
  rw [cancelData_eq]
  exact ((Ends.modEntry later_cancelled u).trans (.trimActive ..)).trans ((Ends.dropPieces ..).trans (.tryComplete ..))

theorem cancelData_onTraffic : OnTraffic u (cancelData t u) := by
  rw [cancelData_eq, dataCancelled]
  exact .of_frames (by simp) (by simp) (by simp)

end Data

/-- R44: what a CANCEL drains of a READ, WRITE or VERIFY. -/
theorem cancelData_drains {t : Tag} {e : Entry} {u : State} (he : entryOf t u = some e) (hk : namesBlocks e.kind = true) :
    HeldOrAnswered t { e with
      cancelTaken := true, state := .draining
      notEnded := e.notEnded - allPieces.countP fun j => (pieceOf j u).any fun q =>
        q.owner = .tag t && (q.state = .queued || q.state = .filling) } (cancelData t u) ∧
    t ∉ (cancelData t u).rqt.active ∧
    PiecesDropped t none (fun q => q.state = .queued || q.state = .filling) u (cancelData t u) ∧
    PiecesRunOn t none (fun q => q.state = .queued || q.state = .filling) u (cancelData t u) ∧
    (∀ j q, pieceOf j u = some q → q.owner ≠ .tag t → pieceOf j (cancelData t u) = some q) ∧
    ∀ j q, pieceOf j (cancelData t u) = some q → q.owner = .tag t → q.state ≠ .queued ∧ q.state ≠ .filling := by
  have hpiece (j : PieceId) : pieceOf j (cancelData t u) =
      pieceOf j (dropPieces t (fun p => p.state = .queued || p.state = .filling) (dataCancelled t u)) :=
    tryComplete_pieceOf ..
  have hends := Ends.cancelData (t := t) (u := u)
  have hdata := dataCancelled_entryOf he
  have hsame (j : PieceId) : pieceOf j (dataCancelled t u) = pieceOf j u := dataCancelled_pieceOf j
  have hactive : t ∉ (dataCancelled t u).rqt.active := trimActive_notMem (entryOf_modEntry he cancelled) rfl
  have hflush : e.kind ≠ .flush := by
    intro h
    rw [h] at hk
    nomatch hk
  obtain ⟨hgone, hstay, hentry⟩ :=
    dropPieces_spec t (fun p => p.state = .queued || p.state = .filling) (dataCancelled t u)
  have hentry := hentry _ hdata hflush
  rw [piecesWhere_length hsame] at hentry
  have hlists := dropPieces_lists t (fun p => p.state = .queued || p.state = .filling) (dataCancelled t u)
  rw [cancelData_eq] at hends hpiece ⊢
  generalize dropPieces t (fun p => p.state = .queued || p.state = .filling) (dataCancelled t u) = v at *
  refine ⟨tryComplete_data hentry ⟨hk, .inr rfl⟩, fun hmem => ?_, .of_gone hends.core fun j r _ _ hr ho hd => ?_,
    fun j r _ hr ho hd => .inl ?_, fun j q hq ho => ?_, fun j q hq ho => ?_⟩
  · exact hactive (hlists.1 ▸ (tryComplete_lists t t v).1 hmem)
  · cases hj : pieceOf j (tryComplete t v) with
    | none => rfl
    | some r' =>
      obtain ⟨hr', hkept⟩ := hgone j r' ((hpiece j).symm.trans hj)
      obtain rfl := Option.some.inj (((hsame j).symm.trans hr').symm.trans hr)
      nomatch (hkept ho).symm.trans hd
  · exact (hpiece j).trans (hstay j r ((hsame j).trans hr) fun _ => hd)
  · exact (hpiece j).trans (hstay j q ((hsame j).trans hq) fun h => absurd h ho)
  · obtain ⟨-, hkept⟩ := hgone j q ((hpiece j).symm.trans hq)
    have hkept := hkept ho
    rw [Bool.or_eq_false_iff, decide_eq_false_iff_not, decide_eq_false_iff_not] at hkept
    exact hkept

section Flush

variable {t : Tag} {e : Entry} {u : State}

theorem cancelFlush_eq : cancelFlush t u = tryComplete t (stopFlush t (modEntry t cancelled u)) := rfl

theorem Ends.cancelFlush : Ends u (cancelFlush t u) := by
  rw [cancelFlush_eq]
  exact (Ends.modEntry later_cancelled u).trans ((Ends.stopFlush ..).trans (.tryComplete ..))

theorem cancelFlush_onTraffic : OnTraffic u (cancelFlush t u) := by
  rw [cancelFlush_eq]
  exact .of_frames (by simp) (by simp) (by simp)

theorem stopFlush_notMem (s : State) : t ∉ (stopFlush t s).rqt.flushing := by
  rw [stopFlush_eq, (dropPieces_lists ..).2]
  exact notMem_leaveSet t _

/-- R48: the QUEUED pieces of a FLUSH that is stopped are gone, and no others. -/
theorem stopFlush_pieces (t : Tag) (s : State) :
    (∀ j p, pieceOf j (stopFlush t s) = some p → pieceOf j s = some p ∧ (p.owner = .tag t → p.state ≠ .queued)) ∧
    ∀ j p, pieceOf j s = some p → (p.owner = .tag t → p.state ≠ .queued) → pieceOf j (stopFlush t s) = some p := by
  obtain ⟨hgone, hstay, -⟩ := dropPieces_spec t (fun p => decide (p.state = .queued)) (uncutDropped t s)
  refine ⟨fun j p hp => ?_, fun j p hp h => hstay j p hp fun ho => decide_eq_false (h ho)⟩
  obtain ⟨hp', hkept⟩ := hgone j p hp
  exact ⟨hp', fun ho => of_decide_eq_false (hkept ho)⟩

end Flush

/-- R48: what a CANCEL drains of a FLUSH. -/
theorem cancelFlush_drains {t : Tag} {e : Entry} {u : State} (he : entryOf t u = some e) (hk : e.kind = .flush) :
    FlushHeldOrAnswered t (flushStopped t none u { e with cancelTaken := true, state := .draining }) (cancelFlush t u) ∧
    t ∉ (cancelFlush t u).rqt.flushing ∧
    PiecesDropped t none (fun q => q.state = .queued) u (cancelFlush t u) ∧
    PiecesRunOn t none (fun q => q.state = .queued) u (cancelFlush t u) ∧
    (∀ j q, pieceOf j u = some q → q.owner ≠ .tag t → pieceOf j (cancelFlush t u) = some q) ∧
    ∀ j q, pieceOf j (cancelFlush t u) = some q → q.owner = .tag t → q.state ≠ .queued := by
  have hends := Ends.cancelFlush (t := t) (u := u)
  have hentry := stopFlush_entry (id := none) (u := u) (v := modEntry t cancelled u) (entryOf_modEntry he cancelled) hk
    (fun _ h => nomatch h) fun _ _ => rfl
  obtain ⟨hgone, hstay⟩ := stopFlush_pieces t (modEntry t cancelled u)
  have hout := stopFlush_notMem (t := t) (modEntry t cancelled u)
  have hpiece (j : PieceId) : pieceOf j (cancelFlush t u) = pieceOf j (stopFlush t (modEntry t cancelled u)) :=
    tryComplete_pieceOf ..
  have hsame (j : PieceId) : pieceOf j (modEntry t cancelled u) = pieceOf j u := rfl
  rw [cancelFlush_eq] at hends hpiece ⊢
  generalize stopFlush t (modEntry t cancelled u) = v at *
  refine ⟨tryComplete_flush hentry hk (.inr rfl), fun hmem => hout ((tryComplete_lists t t v).2 hmem),
    .of_gone hends.core fun j r _ _ hr ho hd => ?_, fun j r _ hr ho hd => .inl ?_, fun j q hq ho => ?_,
    fun j q hq ho => ?_⟩
  · cases hj : pieceOf j (tryComplete t v) with
    | none => rfl
    | some r' =>
      obtain ⟨hr', hkept⟩ := hgone j r' ((hpiece j).symm.trans hj)
      obtain rfl := Option.some.inj (hr'.symm.trans hr)
      exact absurd (of_decide_eq_true hd) (hkept ho)
  · exact (hpiece j).trans (hstay j r hr fun _ => of_decide_eq_false hd)
  · exact (hpiece j).trans (hstay j q hq fun h => absurd h ho)
  · exact (hgone j q ((hpiece j).symm.trans hq)).2 ho

/-- Settles O30: what a CANCEL drains by the kind of the request. -/
theorem cancelDrains : Obligations.CancelDrains := by
  refine fun s u t e hs he hactive => ⟨fun hk => ?_, fun hk => ?_⟩
  · intro gone
    obtain ⟨hmanagement, hmoves, hports, -⟩ := cancelData_onTraffic (t := t) (u := u)
    obtain ⟨hentry, hlist, hdropped, hruns, hothers, hnone⟩ := cancelData_drains he hk
    refine ⟨cancelData t u, ?_, hentry, hlist, hmanagement, hmoves, hports, hdropped, hruns, hothers, hnone⟩
    rw [exec_cancel hs, cancelArrives_active he hactive, if_pos hk]
  · obtain ⟨hmanagement, hmoves, hports, -⟩ := cancelFlush_onTraffic (t := t) (u := u)
    obtain ⟨hentry, hlist, hdropped, hruns, hothers, hnone⟩ := cancelFlush_drains he hk
    have hnames : ¬namesBlocks e.kind = true := by rw [hk]; decide
    refine ⟨cancelFlush t u, ?_, hentry, hlist, hmanagement, hmoves, hports, hdropped, hruns, hothers, hnone⟩
    rw [exec_cancel hs, cancelArrives_active he hactive, if_neg hnames, if_pos hk]

end Sys2Proof.Machine
end

section
/-! SUPPORT. DATA frames from the host (R63, R65, R118). -/

namespace Sys2Proof.Machine

theorem exec_hostData {s u : State} {t : Tag} {off : Half} {b : Block} (hs : StandsAt s u) :
    exec (.hostData t off b) s = .next (finish (dataArrives t off.toNat b u)) :=
  congrArg Host.Outcome.next (event_at hs (dataArrives t off.toNat b))

theorem covers_iff {t : Tag} {off : Nat} {g : Grant} :
    covers t off g = true ↔ g.tag = t ∧ g.first ≤ off ∧ off < g.first + g.count := by
  simp [covers, and_assoc]

theorem setFlag_link (u : State) : setFlag .link u = linkNoted u := rfl

theorem dataArrives_uncovered {t : Tag} {off : Nat} {b : Block} {u : State}
    (h : ∀ g ∈ u.ulc.grants, g.tag = t → ¬(g.first ≤ off ∧ off < g.first + g.count)) :
    dataArrives t off b u = if off ∈ u.ulc.withdrawn[t] then u else linkNoted u := by
  have hnone : u.ulc.grants.find? (covers t off) = none := by
    rw [List.find?_eq_none]
    intro g hg hc
    obtain ⟨ht, hrange⟩ := covers_iff.mp hc
    exact h g hg ht hrange
  simp only [dataArrives, hnone, setFlag_link]

/-- R175: the grant that covers an offset takes its block. -/
theorem dataArrives_covered {g : Grant} {off : Nat} {b : Block} {u : State} (h : OnlyCover g off u) :
    dataArrives g.tag off b u = blockArrives g (off - g.first) b u := by
  obtain ⟨hmem, h1, h2, honly⟩ := h
  have hsome : u.ulc.grants.find? (covers g.tag off) = some g := by
    cases hf : u.ulc.grants.find? (covers g.tag off) with
    | none => exact absurd (covers_iff.mpr ⟨rfl, h1, h2⟩) (List.find?_eq_none.mp hf g hmem)
    | some g' =>
      obtain ⟨ht, h1', h2'⟩ := covers_iff.mp (List.find?_some hf)
      rw [honly g' (List.mem_of_find?_eq_some hf) ht h1' h2']
  simp only [dataArrives, hsome]

theorem blockArrives_twice {g : Grant} {i : Nat} {b : Block} {u : State} (h : i ∈ filledOf g u) :
    blockArrives g i b u = linkNoted u := if_pos h

theorem blockArrives_new {g : Grant} {i : Nat} {b : Block} {u v : State} (h : i ∉ filledOf g u)
    (hv : storeBlock g i b u = v) : blockArrives g i b u = if missingOf g v = [] then grantFilled g v else v := by
  rw [← hv]
  exact if_neg h

theorem missingOf_nil {g : Grant} {v : State} : missingOf g v = [] ↔ ∀ j, j < g.count → j ∈ filledOf g v := by
  simp [missingOf, List.filter_eq_nil_iff]

/-! ### The grant of a piece -/

/-- R63: `v` with a grant ended. -/
def grantEnded (g : Grant) (v : State) : State := v.setUlc { v.ulc with
  grants := v.ulc.grants.filter (· ≠ g), tx := v.ulc.tx.filter (· ≠ .grant g.tag g.first g.count) }

theorem removeGrant_eq (g : Grant) (v : State) : removeGrant g v = grantEnded g v := by
  have htest : (fun f : TxFrame => !decide (f = .grant g.tag g.first g.count)) =
      fun f => decide (f ≠ .grant g.tag g.first g.count) := by
    funext f
    rw [decide_not]
  unfold removeGrant withdrawFrames grantEnded
  rw [htest]
  rfl

theorem filledOf_piece {g : Grant} {id : PieceId} {q : Piece} {u : State} (ht : g.target = .piece id)
    (hq : pieceOf id u = some q) : filledOf g u = q.filled := by
  simp only [filledOf, ht, hq, Option.map_some, Option.getD_some]

/-- R63: `u` with a block of a piece in its slot. -/
def blockStored (id : PieceId) (q : Piece) (i : Nat) (k : SlotId) (b : Block) (u : State) : State :=
  (u.setSpa { u.spa with slots := u.spa.slots.set k b }).setPsc { u.psc with
    pieces := u.psc.pieces.set id (some { q with filled := q.filled ++ [i] }) }

theorem storeBlock_piece {g : Grant} {id : PieceId} {q : Piece} {i : Nat} {k : SlotId} {b : Block} {u : State}
    (ht : g.target = .piece id) (hq : pieceOf id u = some q) (hk : q.slots[i]? = some k) (hi : i ∉ q.filled) :
    storeBlock g i b u = blockStored id q i k b u := by
  simp only [storeBlock, ht, hq, Option.bind_some, hk, modPiece, Option.map_some, joinSet_new hi]
  rfl

theorem blockStored_pieceOf (id : PieceId) (q : Piece) (i : Nat) (k : SlotId) (b : Block) (u : State) :
    pieceOf id (blockStored id q i k b u) = some { q with filled := q.filled ++ [i] } := by
  simp [blockStored, pieceOf]

/-- R63: a new block of a piece; the last one ends its grant. -/
theorem blockArrives_piece {g : Grant} {id : PieceId} {q : Piece} {i : Nat} {k : SlotId} {b : Block} {u : State}
    (ht : g.target = .piece id) (hq : pieceOf id u = some q) (hk : q.slots[i]? = some k) (hi : i ∉ q.filled) :
    blockArrives g i b u = if ∀ j, j < g.count → j ∈ q.filled ++ [i] then grantEnded g (blockStored id q i k b u)
      else blockStored id q i k b u := by
  have hfilled : filledOf g (blockStored id q i k b u) = q.filled ++ [i] :=
    filledOf_piece ht (blockStored_pieceOf id q i k b u)
  have hended : grantFilled g (blockStored id q i k b u) = grantEnded g (blockStored id q i k b u) := by
    simp only [grantFilled, ht, removeGrant_eq]
  rw [blockArrives_new (by rw [filledOf_piece ht hq]; exact hi) (storeBlock_piece ht hq hk hi), hended]
  simp only [missingOf_nil, hfilled]

/-! ### The grant of a MAP STAGE -/

theorem mem_filledOf_buffer {g : Grant} {u : State} (ht : g.target = .buffer) (k : Fin 2) :
    k.val ∈ filledOf g u ↔ (u.mgu.buffer[k]).isSome = true := by
  have hk : Fin.ofNat 2 k.val = k := by ext; exact Nat.mod_eq_of_lt k.isLt
  simp only [filledOf, ht, List.mem_filter, List.mem_range, k.isLt, true_and, hk]

theorem missingOf_buffer {g : Grant} {v : State} (ht : g.target = .buffer) (hc : g.count ≤ 2) :
    missingOf g v = [] ↔ ∀ j : Fin 2, j.val < g.count → (v.mgu.buffer[j]).isSome = true := by
  rw [missingOf_nil]
  refine ⟨fun h j hj => (mem_filledOf_buffer ht j).mp (h j hj), fun h j hj => ?_⟩
  exact (mem_filledOf_buffer ht ⟨j, by omega⟩).mpr (h ⟨j, by omega⟩ hj)

/-- R118: `u` with a block in the management data buffer. -/
def bufferStored (k : Fin 2) (b : Block) (u : State) : State :=
  u.setMgu { u.mgu with buffer := u.mgu.buffer.set k (some b) }

theorem storeBlock_buffer {g : Grant} {k : Fin 2} {b : Block} {u : State} (ht : g.target = .buffer) :
    storeBlock g k.val b u = bufferStored k b u := by
  have hk : Fin.ofNat 2 k.val = k := by ext; exact Nat.mod_eq_of_lt k.isLt
  simp only [storeBlock, ht, hk]
  rfl

theorem applyRecords_get (first count : Nat) (bytes : List Byte) (m : ExtMap) (j : Fin 64) :
    (applyRecords first count bytes m)[j] = if first ≤ j.val ∧ j.val < first + count then
      normalExtent (decodeExtent (recordBytes bytes (j.val - first))) else m[j] := by
  simp [applyRecords]

/-- R118: the staging map once the records of a MAP STAGE are applied. -/
def stagedMap (e : Entry) (v : State) : ExtMap :=
  if v.xmp.stagingOpen then applyRecords e.p0.toNat e.p1.toNat (bufferBytes v) v.xmp.staging else v.xmp.staging

/-- R118: `v` with its MAP STAGE over: the grant ended, the records applied, MGU idle. -/
def stageOver (g : Grant) (e : Entry) (v : State) : State :=
  mguIdle ((grantEnded g v).setXmp { v.xmp with staging := stagedMap e v })

/-- R118: the last block of a MAP STAGE applies its records and answers it. -/
theorem grantFilled_buffer {g : Grant} {e : Entry} {v : State} (ht : g.target = .buffer) (he : entryOf g.tag v = some e) :
    grantFilled g v = complete g.tag .good .none 0 e.p1.toNat (stageOver g e v) := by
  have he' : entryOf g.tag (grantEnded g v) = some e := he
  simp only [grantFilled, ht, removeGrant_eq, applyStage, he']
  rfl

/-- R118: the last block of the buffer ends a MAP STAGE. -/
theorem stage_answers {g : Grant} {e : Entry} {k : Fin 2} {b : Block} {u : State} (ht : g.target = .buffer)
    (he : entryOf g.tag u = some e) :
    ∃ w, grantFilled g (bufferStored k b u) = w ∧ Answers g.tag .good .none 0 e.p1.toNat (grantEnded g u) w ∧
      SameMedia u w ∧ w.mgu = { u.mgu with exec := .idle, executing := none, buffer := #v[none, none] } ∧ w.mst = u.mst ∧
      w.svm = u.svm ∧ w.xmp.active = u.xmp.active ∧ w.xmp.generation = u.xmp.generation ∧
      w.xmp.stagingOpen = u.xmp.stagingOpen ∧
      ∀ j : Fin 64, w.xmp.staging[j] =
        if u.xmp.stagingOpen = true ∧ e.p0.toNat ≤ j.val ∧ j.val < e.p0.toNat + e.p1.toNat then
          normalExtent (decodeExtent (recordBytes (bufferBytes (bufferStored k b u)) (j.val - e.p0.toNat)))
        else u.xmp.staging[j] := by
  have hfilled := grantFilled_buffer (v := bufferStored k b u) ht he
  have hmap : (bufferStored k b u).xmp = u.xmp := rfl
  have hsame : SameMedia u (stageOver g e (bufferStored k b u)) := ⟨rfl, rfl, rfl, rfl, rfl, rfl, rfl⟩
  have hulc : (stageOver g e (bufferStored k b u)).ulc = (grantEnded g u).ulc := rfl
  have hrqt : (stageOver g e (bufferStored k b u)).rqt = (grantEnded g u).rqt := rfl
  have hmve : (stageOver g e (bufferStored k b u)).mve = (grantEnded g u).mve := rfl
  refine ⟨_, hfilled, ?_, ?_, ?_, ?_, ?_, ?_, ?_, ?_, fun j => ?_⟩
  · exact (complete_answers ..).of_view hulc hrqt hmve
  · exact hsame.complete ..
  · rw [complete_mgu]
    rfl
  · rw [complete_mst]
    rfl
  · rw [complete_svm]
    rfl
  · rw [complete_xmp]
    rfl
  · rw [complete_xmp]
    rfl
  · rw [complete_xmp]
    rfl
  · rw [complete_xmp]
    show (stagedMap e (bufferStored k b u))[j] = _
    rw [stagedMap, hmap]
    cases u.xmp.stagingOpen with
    | true =>
      rw [if_pos rfl, applyRecords_get]
      simp only [true_and]
    | false =>
      rw [if_neg Bool.false_ne_true, if_neg (fun h => nomatch h.1)]

/-- Settles O28: no grant covers the offset, or one does, of a piece or of the buffer. -/
theorem hostDataTaken : Obligations.HostDataTaken := by
  intro s u t off b hs c o
  refine ⟨fun hnone => ?_, fun g honly htag => ?_⟩
  · rw [exec_hostData hs, dataArrives_uncovered hnone]
  · subst htag
    intro i ended
    have hexec : exec (.hostData g.tag off b) s = .next (finish (blockArrives g i b u)) := by
      rw [exec_hostData hs, dataArrives_covered honly]
    refine ⟨fun id q k ht hq hk => ⟨fun hi => ?_, fun hi => ?_⟩, fun k ht hcount hik => ⟨fun hfull => ?_, fun hfree => ?_⟩⟩
    · rw [hexec, blockArrives_twice (by rw [filledOf_piece ht hq]; exact hi)]
    · rw [hexec, blockArrives_piece ht hq hk hi]
      rfl
    · rw [hexec, blockArrives_twice (by rw [hik]; exact (mem_filledOf_buffer ht k).mpr hfull)]
    · have hi : i ∉ filledOf g u := by
        rw [hik, mem_filledOf_buffer ht k, hfree]
        decide
      have hblock : blockArrives g i b u =
          if missingOf g (bufferStored k b u) = [] then grantFilled g (bufferStored k b u) else bufferStored k b u :=
        blockArrives_new hi (by rw [hik]; exact storeBlock_buffer ht)
      rw [hblock] at hexec
      refine ⟨fun hmissing => ?_, fun e hfilled he => ?_⟩
      · obtain ⟨j, hj, hjnone⟩ := hmissing
        have hnot : ¬missingOf g (bufferStored k b u) = [] := fun h => by
          have hsome : ((bufferStored k b u).mgu.buffer[j]).isSome = true := (missingOf_buffer ht hcount).mp h j hj
          rw [show (bufferStored k b u).mgu.buffer[j] = none from hjnone] at hsome
          nomatch hsome
        rw [if_neg hnot] at hexec
        exact hexec
      · rw [if_pos ((missingOf_buffer (v := bufferStored k b u) ht hcount).mpr hfilled)] at hexec
        obtain ⟨w, hw, hrest⟩ := stage_answers (k := k) (b := b) ht he
        exact ⟨w, hw ▸ hexec, hrest⟩

end Sys2Proof.Machine
end

section
/-! SUPPORT. A piece that fails without an abort: its request takes the outcome, drops what R35 and R48 name and lets the
rest run; GRANT_TIME (R34 to R36, R48, R64, R119). -/

namespace Sys2Proof.Machine

/-- With its move still there, or none, an end changes no piece that stays. -/
theorem Ends.pieceOf_same {u w : State} (h : Ends u w) (hm : w.mve.isSome = u.mve.isSome) {j : PieceId} {r : Piece}
    (hj : pieceOf j w = some r) : pieceOf j u = some r := by
  obtain ⟨r', hr', rfl | ⟨⟨m, hu, hw, -⟩, -⟩⟩ := h.core.pieces j r hj
  · exact hr'
  · rw [hu, hw] at hm
    nomatch hm

/-! ### The outcome at a READ, WRITE or VERIFY -/

/-- R34, R35: the pieces that a failure does not drop. -/
theorem dataOutcome_failed_keeps {t : Tag} {e : Entry} {q r : Piece} {k : Nat} {c : Cause} {s : State} {j : PieceId}
    (hr : pieceOf j s = some r) (hd : r.owner = .tag t → failureDrops e (q.offset + k) r = false) :
    pieceOf j (dataOutcome t e q (.failed k c) s) = some r := by
  have hlow : lowersFailure (onePieceLess e) (q.offset + k) = e.failure.all fun x => decide (q.offset + k < x.1) :=
    lowersFailure_eq ..
  unfold dataOutcome
  dsimp only
  split
  · next hl =>
    rw [tryComplete_pieceOf, trimActive_pieceOf]
    refine (dropPieces_spec ..).2.1 j r hr fun ho => ?_
    have hd := hd ho
    rw [hlow] at hl
    simpa only [failureDrops, hl, Bool.true_and] using hd
  · rw [tryComplete_pieceOf]
    exact hr

section Fails

variable {t : Tag} {e : Entry} {id : PieceId} {q : Piece} {u : State}

/-- R72: a piece that has failed, as it leaves the part. -/
def failedPiece (k : Nat) (c : Cause) (q : Piece) : Piece := { q with failure := some (k, c) }

/-- R72: the part once a piece that has failed has left it, before its request takes the outcome. -/
def failedLeft (id : PieceId) (k : Nat) (c : Cause) (u : State) : State :=
  detachPiece id (modPiece id (failedPiece k c) u)

theorem modPiece_self (h : pieceOf id u = some q) (f : Piece → Piece) : pieceOf id (modPiece id f u) = some (f q) := by
  rw [modPiece_pieceOf, if_pos rfl, h]
  rfl

theorem failedEnd_eq (h : pieceOf id u = some q) (ho : q.owner = .tag t) (k : Nat) (c : Cause) :
    failedEnd id k c u = requestOutcome t (failedPiece k c q) (.failed k c) (failedLeft id k c u) :=
  pieceEnds_tag (modPiece_self h (failedPiece k c)) ho (.failed k c) none

theorem failedLeft_pieceOf (k : Nat) (c : Cause) (j : PieceId) :
    pieceOf j (failedLeft id k c u) = if j = id then none else pieceOf j u := by
  rw [failedLeft, detachPiece_pieceOf]
  by_cases h : j = id
  · rw [if_pos h, if_pos h]
  · rw [if_neg h, if_neg h, modPiece_pieceOf, if_neg h]

theorem failedLeft_self (k : Nat) (c : Cause) : pieceOf id (failedLeft id k c u) = none := by
  rw [failedLeft_pieceOf, if_pos rfl]

theorem failedLeft_other (k : Nat) (c : Cause) {j : PieceId} (h : j ≠ id) :
    pieceOf j (failedLeft id k c u) = pieceOf j u := by rw [failedLeft_pieceOf, if_neg h]

theorem failedLeft_entryOf (k : Nat) (c : Cause) (t : Tag) : entryOf t (failedLeft id k c u) = entryOf t u :=
  detachPiece_entryOf ..

theorem failedEnd_onTraffic (k : Nat) (c : Cause) : OnTraffic u (failedEnd id k c u) :=
  .of_frames (by simp [failedEnd]) (by simp [failedEnd]) (by simp [failedEnd])

theorem failedEnd_pieceGone (h : pieceOf id u = some q) (k : Nat) (c : Cause) : PieceGone id q (failedEnd id k c u) :=
  ((Ends.failedEnd id k c u).core.gone id q h (failedEnd_gone id k c u)).1

/-- R34 to R36, R39: a READ, WRITE or VERIFY takes the failure of a piece. -/
theorem failedEnd_pieceFailed (h : pieceOf id u = some q) (ho : q.owner = .tag t) (he : entryOf t u = some e)
    (hr : Resolved e) (k : Nat) (c : Cause) : PieceFailed t e id (q.offset + k) c u (failedEnd id k c u) := by
  have hends := Ends.failedEnd id k c u
  have hmoves := (failedEnd_onTraffic (id := id) (u := u) k c).moves
  have hentry : entryOf t (failedLeft id k c u) = some e := (failedLeft_entryOf k c t).trans he
  have heq : failedEnd id k c u = dataOutcome t e (failedPiece k c q) (.failed k c) (failedLeft id k c u) := by
    rw [failedEnd_eq h ho, requestOutcome, hentry]
    exact if_neg (resolved_notFlush hr)
  have hfailure : FailureAtRequest t e id (q.offset + k) c u (failedEnd id k c u) := by
    rw [heq]
    exact dataOutcome_failed (q := failedPiece k c q) (id := id) k c hr (failedLeft_self k c)
      fun j hj => failedLeft_other k c hj
  refine ⟨hfailure, .of_gone hends.core fun j r hj _ hr' ho' hd => ?_, fun j r hj hr' ho' hd => .inl ?_⟩
  · cases hw : pieceOf j (failedEnd id k c u) with
    | none => rfl
    | some r₁ =>
      obtain rfl := Option.some.inj (hr'.symm.trans (hends.pieceOf_same hmoves hw))
      rw [failureDrops, Bool.and_eq_true] at hd
      obtain ⟨hlow, hdrained⟩ := hd
      unfold FailureAtRequest at hfailure
      rw [if_pos hlow] at hfailure
      nomatch (hfailure.2 j r hw ho').symm.trans hdrained
  · have hj' : j ≠ id := fun h => hj (congrArg some h)
    rw [heq]
    exact dataOutcome_failed_keeps ((failedLeft_other k c hj').trans hr') fun _ => hd

/-! ### The outcome at a FLUSH -/

/-- R48: the entry of a FLUSH at its first failure, before it is stopped. -/
def firstFlushFailure (t : Tag) (e : Entry) (q : Piece) (c : Cause) (s : State) : State :=
  setEntry t (some { markPort q.port .failed (onePieceLess e) with failure := some (q.port.val, c), state := .draining }) s

/-- R48: a FLUSH takes the failure of one of its pieces. -/
theorem failedEnd_flushFailed (h : pieceOf id u = some q) (ho : q.owner = .tag t) (he : entryOf t u = some e)
    (hk : e.kind = .flush) (hs : e.state = .active ∨ e.state = .draining) (k : Nat) (c : Cause) :
    FlushPieceFailed t e id q.port c u (failedEnd id k c u) := by
  have hends := Ends.failedEnd id k c u
  have hmoves := (failedEnd_onTraffic (id := id) (u := u) k c).moves
  have hentry : entryOf t (failedLeft id k c u) = some e := (failedLeft_entryOf k c t).trans he
  have heq : failedEnd id k c u = flushOutcome t e (failedPiece k c q) (.failed k c) (failedLeft id k c u) := by
    rw [failedEnd_eq h ho, requestOutcome, hentry]
    exact if_pos hk
  cases hf : e.failure with
  | none =>
    have hfirst : failedEnd id k c u = tryComplete t (stopFlush t (firstFlushFailure t e q c (failedLeft id k c u))) := by
      rw [heq]
      exact if_pos ((congrArg Option.isNone hf).trans rfl)
    have hstop := stopFlush_entry (id := some id) (u := u) (v := firstFlushFailure t e q c (failedLeft id k c u))
      (entryOf_setEntry_self ..) hk (fun j hj => Option.some.inj hj ▸ failedLeft_self k c)
      fun j hj => failedLeft_other k c fun x => hj (congrArg some x)
    obtain ⟨hgone, hstay⟩ := stopFlush_pieces t (firstFlushFailure t e q c (failedLeft id k c u))
    have hsame (j : PieceId) : pieceOf j (firstFlushFailure t e q c (failedLeft id k c u)) =
        pieceOf j (failedLeft id k c u) := rfl
    have hpiece (j : PieceId) : pieceOf j (failedEnd id k c u) =
        pieceOf j (stopFlush t (firstFlushFailure t e q c (failedLeft id k c u))) := by
      rw [hfirst]
      exact tryComplete_pieceOf ..
    have hdrops (r : Piece) : flushDrops e r = decide (r.state = .queued) := by
      rw [flushDrops, hf]
      exact Bool.true_and _
    have hentry' : flushFailed t (some id) q.port c u { e with notEnded := e.notEnded - 1 } =
        flushStopped t (some id) u { markPort q.port .failed (onePieceLess e) with
          failure := some (q.port.val, c), state := .draining } := if_pos hf
    refine ⟨?_, .of_gone hends.core fun j r hj _ hr' ho' hd => ?_, fun j r hj hr' ho' hd => .inl ?_⟩
    · rw [hfirst, hentry']
      exact tryComplete_flush hstop hk (.inr rfl)
    · cases hw : pieceOf j (failedEnd id k c u) with
      | none => rfl
      | some r₁ =>
        obtain rfl := Option.some.inj (hr'.symm.trans (hends.pieceOf_same hmoves hw))
        exact absurd (of_decide_eq_true (hdrops r ▸ hd)) ((hgone j r ((hpiece j).symm.trans hw)).2 ho')
    · have hj' : j ≠ id := fun x => hj (congrArg some x)
      rw [hpiece]
      exact hstay j r ((hsame j).trans ((failedLeft_other k c hj').trans hr')) fun _ =>
        of_decide_eq_false (hdrops r ▸ hd)
  | some f =>
    have hlater : failedEnd id k c u =
        tryComplete t (setEntry t (some (markPort q.port .failed (onePieceLess e))) (failedLeft id k c u)) := by
      rw [heq]
      have hnot : ¬e.failure.isNone = true := by rw [hf]; exact Bool.false_ne_true
      exact if_neg hnot
    have hsome : ¬e.failure = none := by rw [hf]; exact fun x => nomatch x
    have hentry' : flushFailed t (some id) q.port c u { e with notEnded := e.notEnded - 1 } =
        markPort q.port .failed (onePieceLess e) := if_neg hsome
    refine ⟨?_, fun j r _ _ _ _ hd => ?_, fun j r hj hr' _ _ => .inl ?_⟩
    · rw [hlater, hentry']
      exact tryComplete_flush (entryOf_setEntry_self ..) hk hs
    · rw [flushDrops, hf] at hd
      nomatch hd
    · have hj' : j ≠ id := fun x => hj (congrArg some x)
      rw [hlater, tryComplete_pieceOf]
      exact (failedLeft_other k c hj').trans hr'

end Fails

/-! ### GRANT_TIME (R64, R119) -/

theorem exec_grantTimeExpiry {s u : State} {t : Tag} {first : Half} (hs : StandsAt s u) :
    exec (.grantTimeExpiry t first) s = .next (finish (grantTimeUp t first.toNat u)) :=
  congrArg Host.Outcome.next (event_at hs (grantTimeUp t first.toNat))

theorem grantTimeUp_found {t : Tag} {first : Nat} {g : Grant} {u : State} (hg : g ∈ u.ulc.grants) (ht : g.tag = t)
    (hf : g.first = first) (honly : ∀ g' ∈ u.ulc.grants, g'.tag = t → g'.first = first → g' = g) :
    grantTimeUp t first u = grantExpires g u := by
  have hsome : (u.ulc.grants.find? fun g => g.tag = t && g.first = first) = some g := by
    cases h : u.ulc.grants.find? fun g => g.tag = t && g.first = first with
    | none =>
      have := List.find?_eq_none.mp h g hg
      simp [ht, hf] at this
    | some g' =>
      have htest := List.find?_some h
      rw [Bool.and_eq_true, decide_eq_true_iff, decide_eq_true_iff] at htest
      rw [honly g' (List.mem_of_find?_eq_some h) htest.1 htest.2]
  simp only [grantTimeUp, hsome]

/-- R64: the lowest missing block. -/
theorem missingOf_head {g : Grant} {i : Nat} {u : State} (hi : i < g.count) (hmiss : i ∉ filledOf g u)
    (hlow : ∀ j, j < i → j ∈ filledOf g u) : ∃ rest, missingOf g u = i :: rest := by
  have hsplit : List.range g.count = List.range i ++ i :: (List.range (g.count - i - 1)).map (fun x => i + 1 + x) := by
    have hcount : g.count = i + (1 + (g.count - i - 1)) := by omega
    calc List.range g.count = List.range (i + (1 + (g.count - i - 1))) := by rw [← hcount]
      _ = List.range i ++ (List.range (1 + (g.count - i - 1))).map (fun x => i + x) := List.range_add
      _ = _ := by
        rw [List.range_add, List.map_append, List.map_map]
        simp [Function.comp_def, Nat.add_assoc]
  refine ⟨((List.range (g.count - i - 1)).map (fun x => i + 1 + x)).filter fun i => i ∉ filledOf g u, ?_⟩
  have hbefore : (List.range i).filter (fun i => decide (i ∉ filledOf g u)) = [] :=
    List.filter_eq_nil_iff.mpr fun j hj => by simpa using hlow j (List.mem_range.mp hj)
  rw [missingOf, hsplit, List.filter_append, hbefore, List.nil_append, List.filter_cons_of_pos (by simpa using hmiss)]

/-- R65: the grant of a MAP STAGE whose data is late is withdrawn, and the request answered. -/
theorem stageLate_answers (g : Grant) (i : Nat) (u : State) :
    Answers g.tag .failed .dataTimeout 0 i u (stageLate g i u) ∧ SameMedia u (stageLate g i u) ∧
      (∀ j, j < g.count → j ∉ filledOf g u → g.first + j ∈ (stageLate g i u).ulc.withdrawn[g.tag]) ∧
      (stageLate g i u).mgu = { u.mgu with exec := .idle, executing := none, buffer := #v[none, none] } ∧
      (stageLate g i u).xmp = u.xmp ∧ (stageLate g i u).mst = u.mst ∧ (stageLate g i u).svm = u.svm := by
  have hgrants : (withdrawGrant g u).ulc.grants.filter (·.tag ≠ g.tag) = u.ulc.grants.filter (·.tag ≠ g.tag) := by
    have hself : (withdrawGrant g u).ulc.grants = u.ulc.grants.filter (· ≠ g) := rfl
    rw [hself, List.filter_filter]
    refine List.filter_congr fun g' _ => ?_
    by_cases h : g'.tag = g.tag
    · simp [h]
    · have hne : g' ≠ g := fun x => h (congrArg Grant.tag x)
      simp [h, hne]
  have hwithdrawn (t' : Tag) (h : t' ≠ g.tag) : (withdrawGrant g u).ulc.withdrawn[t'] = u.ulc.withdrawn[t'] :=
    Vector.getElem_set_ne g.tag.isLt t'.isLt fun x => h (Fin.ext x).symm
  obtain ⟨hanswer, hmedia, hrest⟩ := idle_answers .failed .dataTimeout i (withdrawGrant_ulc g u)
    (withdrawGrant_handed g u) hgrants hwithdrawn
  refine ⟨hanswer, hmedia, fun j hj hf => ?_, hrest⟩
  exact (Core.complete (fun _ => False) g.tag .failed .dataTimeout 0 i (mguIdle (withdrawGrant g u))).withdrawn _ _
    (withdrawGrant_joins hj hf)

/-- Settles O38: the grant is a piece's or the buffer's. -/
theorem Settled.grantExpires : Obligations.GrantExpires := by
  intro s u t first g i hs hg ht hf honly hi hmiss hlow c
  obtain ⟨rest, hmissing⟩ := missingOf_head hi hmiss hlow
  have hexec := exec_grantTimeExpiry (t := t) (first := first) hs
  rw [grantTimeUp_found hg ht hf honly] at hexec
  refine ⟨fun id q e htarget hq ho _ he hr => ?_, fun htarget => ?_⟩
  · have hmove : ¬q.owner = .move := by rw [ho]; exact fun h => nomatch h
    have hexp : Machine.grantExpires g u = failedEnd id i .dataTimeout u := by
      simp only [Machine.grantExpires, hmissing, htarget]
      rw [sourceFails_eq hq, if_neg hmove]
      rfl
    rw [hexp] at hexec
    obtain ⟨hmanagement, hmoves, hports, -⟩ := failedEnd_onTraffic (id := id) (u := u) i .dataTimeout
    have hgone := failedEnd_pieceGone hq i .dataTimeout
    have hgrant : g ∉ (failedEnd id i .dataTimeout u).ulc.grants := fun h => hgone.2.2.2.2 g h htarget
    refine ⟨_, hexec, hgone, hgrant, fun g' hg' ht' j hj hjf => ?_, failedEnd_pieceFailed hq ho he hr i .dataTimeout,
      hmoves, hports, hmanagement⟩
    exact (Ends.failedEnd id i .dataTimeout u).core.grants g' hg' (fun h => hgone.2.2.2.2 g' h ht') id q ht' hq j hj hjf
  · subst ht
    have hexp : Machine.grantExpires g u = stageLate g i u := by simp only [Machine.grantExpires, hmissing, htarget]
    rw [hexp] at hexec
    exact ⟨_, hexec, stageLate_answers g i u⟩

end Sys2Proof.Machine
end

section
/-! SUPPORT. The DATA frame of a READ that leaves (R60, R67, R91). -/

namespace Sys2Proof.Machine

/-! ### The end of a piece that clears a fault count -/

theorem clearFaults_portOf (p p' : PortId) (s : State) : portOf p' (clearFaults p s) =
    if p' = p ∧ (portOf p s).state = .ready then { portOf p s with faults := 0 } else portOf p' s := by
  unfold clearFaults modPort setPort portOf
  by_cases h : p' = p
  · subst h
    simp only [State.setPorts_ports, true_and, Fin.getElem_fin, Vector.getElem_set_self]
  · have hne : p.val ≠ p'.val := fun x => h (Fin.ext x).symm
    simp [hne, h]

/-- R72: a request's piece ends DONE; the ports are as they were but for the fault count. -/
theorem pieceEnds_done_ports {id : PieceId} {q : Piece} {s : State} (h : pieceOf id s = some q) (p p' : PortId) :
    portOf p' (pieceEnds id .done (some p) s) =
      if p' = p ∧ (portOf p s).state = .ready then { portOf p s with faults := 0 } else portOf p' s := by
  have hdetach (x : PortId) : portOf x (detachPiece id s) = portOf x s := by unfold portOf; rw [detachPiece_ports]
  have hleft : portOf p' (leavesPart id (some p) s) =
      if p' = p ∧ (portOf p s).state = .ready then { portOf p s with faults := 0 } else portOf p' s := by
    rw [← hdetach p, ← hdetach p']
    exact clearFaults_portOf p p' (detachPiece id s)
  by_cases ht : ∃ t, q.owner = .tag t
  · obtain ⟨t, ht⟩ := ht
    have hports : portOf p' (requestOutcome t q .done (leavesPart id (some p) s)) = portOf p' (leavesPart id (some p) s) := by
      unfold portOf
      rw [requestOutcome_ports]
    rw [pieceEnds_tag h ht, hports, hleft]
  · rw [pieceEnds_other h fun t x => ht ⟨t, x⟩, hleft]

/-- R32: a piece of a READ, WRITE or VERIFY ends DONE. -/
theorem pieceEnds_takes {id : PieceId} {q : Piece} {t : Tag} {e : Entry} {s : State} (h : pieceOf id s = some q)
    (ho : q.owner = .tag t) (he : entryOf t s = some e) (hr : Resolved e) (a : Option PortId) :
    PieceDone t e q (pieceEnds id .done a s) := by
  have he' : entryOf t (leavesPart id a s) = some e := by
    cases a <;> exact (detachPiece_entryOf id t s).trans he
  rw [pieceEnds_tag h ho, requestOutcome, he']
  dsimp only
  rw [if_neg (resolved_notFlush hr)]
  exact dataOutcome_done t e q _ hr

theorem leavesPart_control (id : PieceId) (a : Option PortId) (s : State) : (leavesPart id a s).control = s.control := by
  cases a <;> simp [leavesPart]

/-! ### The departure -/

/-- R67, R176: the DATA frame of a READ has left. -/
def dataLeft (t : Tag) (off : Nat) (b : Block) (rest : List TxFrame) (u : State) : State :=
  (u.setUlc { u.ulc with tx := rest }).setOut { u.out with sent := u.out.sent ++ [.data t off b] }

/-- R60, R67: and its slot has been released. -/
def slotLeft (id : PieceId) (q : Piece) (v : State) : State :=
  releaseSlots (q.slots.take 1) (modPiece id (fun q => { q with slots := q.slots.tail }) v)

theorem readDataLeaves_eq {id : PieceId} {t : Tag} {off : Nat} {b : Block} {rest : List TxFrame} {q : Piece} {u : State}
    (htx : u.ulc.tx = .readData id t off b :: rest) (hq : pieceOf id u = some q) : readDataLeaves u =
      if q.slots.length ≤ 1 then pieceEnds id .done (some q.port) (slotLeft id q (dataLeft t off b rest u))
      else handBlock id (slotLeft id q (dataLeft t off b rest u)) := by
  have hleaves : frameLeaves (.data t off b) u = dataLeft t off b rest u := by
    unfold frameLeaves dataLeft
    rw [htx]
    rfl
  have hq' : pieceOf id (dataLeft t off b rest u) = some q := hq
  simp only [readDataLeaves, htx, hleaves, blockDelivered, hq']
  rfl

theorem slotLeft_self {id : PieceId} {q : Piece} {v : State} (hq : pieceOf id v = some q) :
    pieceOf id (slotLeft id q v) = some { q with slots := q.slots.tail } := modPiece_self hq _

theorem handBlock_tag {id : PieceId} {q : Piece} {t : Tag} {k : SlotId} {ks : List SlotId} {s : State}
    (hq : pieceOf id s = some q) (ho : q.owner = .tag t) (hslots : q.slots = k :: ks) : handBlock id s =
      handFrame (.readData id t (q.offset + (q.count - q.slots.length)) (slotContent k s)) s := by
  simp only [handBlock, hq, ho, hslots]

/-- R67: the next block is handed over. -/
theorem handBlock_next {id : PieceId} {q : Piece} {t : Tag} {k k' : SlotId} {ks : List SlotId} {v : State}
    (hq : pieceOf id v = some q) (ho : q.owner = .tag t) (hslots : q.slots = k :: k' :: ks) :
    handBlock id (slotLeft id q v) = ((v.setUlc { v.ulc with tx := v.ulc.tx ++
        [.readData id t (q.offset + (q.count - (ks.length + 1))) v.spa.slots[k']] }).setSpa
          { v.spa with free := v.spa.free ++ [k] }).setPsc
      { v.psc with pieces := v.psc.pieces.set id (some { q with slots := k' :: ks }) } := by
  have hleft : slotLeft id q v = (v.setPsc { v.psc with
      pieces := v.psc.pieces.set id (some { q with slots := k' :: ks }) }).setSpa
        { v.spa with free := v.spa.free ++ [k] } := by
    unfold slotLeft modPiece
    rw [hq, hslots]
    simp only [Option.map_some, hslots, List.tail_cons, List.take_succ_cons, List.take_zero]
    rfl
  have hself : pieceOf id (slotLeft id q v) = some { q with slots := k' :: ks } := by
    rw [slotLeft_self hq, hslots]
    rfl
  rw [handBlock_tag hself ho rfl, hleft]
  rfl

/-- R67, R72: the last frame of a piece has left. -/
theorem slotLeft_gone {id : PieceId} {q : Piece} {v : State} (hq : pieceOf id v = some q) (hs : q.slots.length ≤ 1) :
    PieceGone id q (pieceEnds id .done (some q.port) (slotLeft id q v)) := by
  obtain ⟨hnone, hqueues, hwaiting, -, hgrants⟩ := pieceEnds_gone (slotLeft_self hq) .done (some q.port)
  refine ⟨hnone, hqueues, hwaiting, fun k hk => ?_, hgrants⟩
  have hfree : k ∈ (slotLeft id q v).spa.free := by
    have htake : q.slots.take 1 = q.slots := List.take_of_length_le hs
    show k ∈ v.spa.free ++ q.slots.take 1
    rw [htake]
    exact List.mem_append_right _ hk
  exact (Shrinks.pieceEnds id .done (some q.port) (slotLeft id q v)).2.2.2.1 k hfree

/-- Settles O32: the piece has another block to hand over, or this was its last. -/
theorem readDataDeparts : Obligations.ReadDataDeparts := by
  refine fun s u id t off b rest q hs htx hq ho => ⟨fun k k' ks hslots => ?_, fun e hlast he hr => ?_⟩
  · have hmore : ¬q.slots.length ≤ 1 := by rw [hslots]; simp
    rw [exec_readDataDeparts hs, readDataLeaves_eq htx hq, if_neg hmore,
      handBlock_next (v := dataLeft t off b rest u) hq ho hslots]
    rfl
  · have hself : pieceOf id (slotLeft id q (dataLeft t off b rest u)) = some { q with slots := q.slots.tail } :=
      slotLeft_self (v := dataLeft t off b rest u) hq
    refine ⟨pieceEnds id .done (some q.port) (slotLeft id q (dataLeft t off b rest u)), ?_,
      slotLeft_gone (v := dataLeft t off b rest u) hq hlast, pieceEnds_takes hself ho he hr _, fun p => ?_, ?_, ?_⟩
    · rw [exec_readDataDeparts hs, readDataLeaves_eq htx hq, if_pos hlast]
    · have hports := pieceEnds_done_ports hself q.port p
      have hsame (x : PortId) : portOf x (slotLeft id q (dataLeft t off b rest u)) = portOf x u := rfl
      rw [hsame, hsame] at hports
      rw [hports]
      by_cases hp : p = q.port
      · rw [hp]
      · rw [if_neg fun h => hp h.1, if_neg fun h => hp h.1]
    · exact congrArg (·.2) (pieceEnds_outer id .done (some q.port) (slotLeft id q (dataLeft t off b rest u)))
    · have hc := pieceEnds_control id .done (some q.port) (slotLeft id q (dataLeft t off b rest u))
      have hi := pieceEnds_inner id .done (some q.port) (slotLeft id q (dataLeft t off b rest u))
      exact ⟨congrArg (·.2.2.1) hi, congrArg (·.1) hi, congrArg (·.2.2.1) hc, congrArg (·.2.2.2.1) hc⟩

end Sys2Proof.Machine
end

section
/-! SUPPORT. A link reset (R49, R71, R73, R111, R113, R136, R176, R178). -/

namespace Sys2Proof.Machine

/-! ### What the sweep over the pieces keeps -/

/-- R60, R72, R73, R176: between `u` and `w` pieces have left the part, and nothing has completed. -/
structure Sweeps (u w : State) : Prop where
  kept : w.ulc.tx.filter keptAtReset = u.ulc.tx.filter keptAtReset
  free : ∀ k, k ∈ u.spa.free → k ∈ w.spa.free
  pieces : ∀ j q', pieceOf j w = some q' → ∃ q, pieceOf j u = some q ∧ q'.slots = q.slots
  gone : ∀ j q, pieceOf j u = some q → pieceOf j w = none → ∀ k ∈ q.slots, k ∈ w.spa.free
  queues : ∀ p, queueOf p w = (queueOf p u).filter fun j => (pieceOf j u).isNone || (pieceOf j w).isSome
  pointer : w.spa.pointer = u.spa.pointer
  waiting : ∀ j, j ∈ w.psc.waiting → j ∈ u.psc.waiting
  waits : ∀ j, j ∈ u.psc.waiting → (pieceOf j w).isSome → j ∈ w.psc.waiting
  ports : w.ports = u.ports
  control : w.control = u.control
  outer : w.outer = u.outer

namespace Sweeps

variable {u v w : State}

theorem refl (u : State) : Sweeps u u where
  kept := rfl
  free _ h := h
  pieces _ q h := ⟨q, h, rfl⟩
  gone _ _ h h' := nomatch h.symm.trans h'
  queues p := by
    refine (List.filter_eq_self.mpr fun j _ => ?_).symm
    cases pieceOf j u <;> rfl
  pointer := rfl
  waiting _ h := h
  waits _ h _ := h
  ports := rfl
  control := rfl
  outer := rfl

theorem isSome (h : Sweeps u w) {j : PieceId} (hj : (pieceOf j w).isSome) : (pieceOf j u).isSome := by
  obtain ⟨q', hq'⟩ := Option.isSome_iff_exists.mp hj
  obtain ⟨q, hq, -⟩ := h.pieces j q' hq'
  rw [hq]
  rfl

theorem trans (h : Sweeps u v) (k : Sweeps v w) : Sweeps u w where
  kept := k.kept.trans h.kept
  free x hx := k.free x (h.free x hx)
  pieces j q'' hq'' := by
    obtain ⟨q', hq', hs'⟩ := k.pieces j q'' hq''
    obtain ⟨q, hq, hs⟩ := h.pieces j q' hq'
    exact ⟨q, hq, hs'.trans hs⟩
  gone j q hq hw x hx := by
    cases hv : pieceOf j v with
    | none => exact k.free x (h.gone j q hq hv x hx)
    | some q' =>
      obtain ⟨q₀, hq₀, hs⟩ := h.pieces j q' hv
      obtain rfl := Option.some.inj (hq.symm.trans hq₀)
      exact k.gone j q' hv hw x (hs ▸ hx)
  queues p := by
    rw [k.queues p, h.queues p, List.filter_filter]
    refine List.filter_congr fun j _ => ?_
    cases hu : pieceOf j u with
    | none =>
      cases hv : pieceOf j v with
      | none => rfl
      | some q =>
        obtain ⟨q₀, hq₀, -⟩ := h.pieces j q hv
        nomatch hu.symm.trans hq₀
    | some q =>
      cases hv : pieceOf j v with
      | some q' => simp
      | none =>
        cases hw : pieceOf j w with
        | none => simp
        | some q'' =>
          obtain ⟨q₀, hq₀, -⟩ := k.pieces j q'' hw
          nomatch hv.symm.trans hq₀
  pointer := k.pointer.trans h.pointer
  waiting j hj := h.waiting j (k.waiting j hj)
  waits j hj hs := k.waits j (h.waits j hj (k.isSome hs)) hs
  ports := k.ports.trans h.ports
  control := k.control.trans h.control
  outer := k.outer.trans h.outer

theorem modPiece {id : PieceId} {f : Piece → Piece} (hf : ∀ q, (f q).slots = q.slots) (s : State) :
    Sweeps s (modPiece id f s) := by
  have hsome (j : PieceId) : (pieceOf j (Machine.modPiece id f s)).isSome = (pieceOf j s).isSome := by
    rw [modPiece_pieceOf]
    split
    · next h => rw [h, Option.isSome_map]
    · rfl
  refine { refl s with pieces := fun j q' h => ?_, gone := fun j q h h' => ?_, queues := fun p => ?_, waits := fun j h _ => h }
  · rw [modPiece_pieceOf] at h
    split at h
    · next hj =>
      obtain ⟨q, hq, rfl⟩ := Option.map_eq_some_iff.mp h
      exact ⟨q, hj ▸ hq, hf q⟩
    · exact ⟨q', h, rfl⟩
  · have := hsome j
    rw [h, h'] at this
    nomatch this
  · refine (List.filter_eq_self.mpr fun j _ => ?_).symm
    rw [hsome]
    cases pieceOf j s <;> rfl

theorem detachPiece (id : PieceId) (s : State) : Sweeps s (detachPiece id s) := by
  cases hq : pieceOf id s with
  | none => rw [detachPiece_none hq]; exact .refl s
  | some q =>
    obtain ⟨x, y, -, hframes, hfree, -, hpointer, heq⟩ := detachPiece_eq hq
    have hpiece := detachPiece_pieceOf id
    have hkept (l : List TxFrame) : l.filter keptAtReset = (l.filter notGrant).filter keptAtReset := by
      rw [List.filter_filter]
      exact List.filter_congr fun f _ => by cases f <;> rfl
    refine ⟨?_, fun k h => ?_, fun j q' h => ?_, fun j r h h' k hk => ?_, fun p => ?_, ?_, fun j h => ?_, fun j h h' => ?_,
      detachPiece_ports .., detachPiece_control .., detachPiece_outer ..⟩
    · have hulc : (Machine.detachPiece id s).ulc = x := by rw [heq]; rfl
      rw [hulc, hkept x.tx, hframes, List.filter_filter]
      exact List.filter_congr fun f _ => by cases f <;> rfl
    · rw [heq]
      show k ∈ y.free
      rw [hfree]
      exact List.mem_append_left _ h
    · rw [hpiece] at h
      split at h
      · nomatch h
      · exact ⟨q', h, rfl⟩
    · rw [hpiece] at h'
      split at h'
      · next hj =>
        obtain rfl := Option.some.inj (hq.symm.trans (hj ▸ h))
        rw [heq]
        show k ∈ y.free
        rw [hfree]
        exact List.mem_append_right _ hk
      · nomatch h.symm.trans h'
    · have hqueue : queueOf p (Machine.detachPiece id s) = leaveSet id (queueOf p s) := by
        rw [heq]
        exact mapVec_get ..
      rw [hqueue, leaveSet]
      refine List.filter_congr fun j _ => ?_
      rw [hpiece]
      by_cases hj : j = id
      · subst hj
        simp [hq]
      · cases pieceOf j s <;> simp [hj]
    · rw [heq]
      exact hpointer
    · rw [heq] at h
      exact leaveSet_subset h
    · rw [hpiece] at h'
      split at h'
      · nomatch h'
      · next hj =>
        rw [heq]
        exact List.mem_filter.mpr ⟨h, decide_eq_true hj⟩

theorem moveOver (s : State) : Sweeps s (moveOver s) := { refl s with }

theorem foldl {f : State → PieceId → State} (hf : ∀ s j, Sweeps s (f s j)) (l : List PieceId) (s : State) :
    Sweeps s (l.foldl f s) := by
  induction l generalizing s with
  | nil => exact .refl s
  | cons j l ih => exact (hf s j).trans (ih _)

end Sweeps

/-! ### The shadow set of a move -/

/-- R105: between `u` and `w` the move of `u` has stayed, and of its shadow set the pieces that are still there. -/
structure ShadowsKept (u w : State) : Prop where
  idle : u.mve = none → w.mve = none
  moves : ∀ m, u.mve = some m → ∃ m', w.mve = some m' ∧ (∀ j, j ∈ m'.shadows → j ∈ m.shadows) ∧
    ∀ j, j ∈ m.shadows → (pieceOf j w).isSome → j ∈ m'.shadows

theorem ShadowsKept.of_eq {u w : State} (h : w.mve = u.mve) : ShadowsKept u w where
  idle hm := h.trans hm
  moves m hm := ⟨m, h.trans hm, fun _ hj => hj, fun _ hj _ => hj⟩

theorem ShadowsKept.trans {u v w : State} (h : ShadowsKept u v) (k : ShadowsKept v w) (hs : Sweeps v w) : ShadowsKept u w where
  idle hm := k.idle (h.idle hm)
  moves m hm := by
    obtain ⟨m', hm', h1, h2⟩ := h.moves m hm
    obtain ⟨m'', hm'', k1, k2⟩ := k.moves m' hm'
    exact ⟨m'', hm'', fun j hj => h1 j (k1 j hj), fun j hj hw => k2 j (h2 j hj (hs.isSome hw)) hw⟩

theorem ShadowsKept.detachPiece (id : PieceId) (s : State) : ShadowsKept s (detachPiece id s) := by
  cases hq : pieceOf id s with
  | none => rw [detachPiece_none hq]; exact .of_eq rfl
  | some q =>
    obtain ⟨x, y, -, -, -, -, -, heq⟩ := detachPiece_eq hq
    have hmve : (Machine.detachPiece id s).mve = s.mve.map fun m => { m with
        shadows := leaveSet id m.shadows, piece := if m.piece = some id then none else m.piece } := by rw [heq]; rfl
    refine ⟨fun hm => by rw [hmve, hm]; rfl, fun m hm => ⟨_, by rw [hmve, hm]; rfl, fun j hj => leaveSet_subset hj,
      fun j hj hw => ?_⟩⟩
    rw [detachPiece_pieceOf] at hw
    split at hw
    · nomatch hw
    · next hne => exact List.mem_filter.mpr ⟨hj, decide_eq_true hne⟩

/-! ### The pieces of requests (R73) -/

/-- R73: what a link reset leaves of a piece of a request. -/
def resetOf (q : Piece) : Option Piece :=
  match q.owner with
  | .tag _ =>
    if q.state = .queued ∨ q.state = .filling ∨ q.state = .delivering then none else some { q with owner := .discard }
  | .move | .discard => some q

theorem resetOf_tag {q : Piece} {t : Tag} (ho : q.owner = .tag t) : resetOf q =
    if q.state = .queued ∨ q.state = .filling ∨ q.state = .delivering then none else some { q with owner := .discard } := by
  simp only [resetOf, ho]

theorem resetOf_other {q : Piece} (ho : ∀ t, q.owner ≠ .tag t) : resetOf q = some q := by
  unfold resetOf
  cases h : q.owner with
  | tag t => exact absurd h (ho t)
  | move => rfl
  | discard => rfl

theorem resetPiece_eq {id : PieceId} {q : Piece} {s : State} (h : pieceOf id s = some q) : resetPiece id s =
    match q.owner with
    | .tag _ =>
      if q.state = .queued ∨ q.state = .filling ∨ q.state = .delivering then detachPiece id s
      else modPiece id (fun p => { p with owner := .discard }) s
    | .move | .discard => s := by
  simp only [resetPiece, h]
  cases q.owner <;> cases q.state <;> simp

theorem resetPiece_none {id : PieceId} {s : State} (h : pieceOf id s = none) : resetPiece id s = s := by
  simp only [resetPiece, h]

/-- R73: a link reset acts on one piece. -/
theorem resetPiece_spec (id : PieceId) (s : State) :
    Sweeps s (resetPiece id s) ∧ ShadowsKept s (resetPiece id s) ∧ (resetPiece id s).xmp = s.xmp ∧
      ∀ j, pieceOf j (resetPiece id s) = if j = id then (pieceOf id s).bind resetOf else pieceOf j s := by
  have hkeep {q : Option Piece} (h : pieceOf id s = q) (j : PieceId) : pieceOf j s = if j = id then q else pieceOf j s := by
    split
    · next hj => rw [hj, h]
    · rfl
  cases hq : pieceOf id s with
  | none =>
    rw [resetPiece_none hq]
    exact ⟨.refl s, .of_eq rfl, rfl, hkeep hq⟩
  | some q =>
    rw [resetPiece_eq hq, Option.bind_some]
    by_cases ho : ∃ t, q.owner = .tag t
    · obtain ⟨t, ho⟩ := ho
      rw [resetOf_tag ho]
      simp only [ho]
      split
      · exact ⟨.detachPiece id s, .detachPiece id s, congrArg (·.2.2.1) (detachPiece_inner id s),
          fun j => detachPiece_pieceOf id j s⟩
      · refine ⟨Sweeps.modPiece (id := id) (f := fun p => { p with owner := .discard }) (fun _ => rfl) s, .of_eq rfl, rfl,
          fun j => ?_⟩
        rw [modPiece_pieceOf, hq]
        rfl
    · have ho' : ∀ t, q.owner ≠ .tag t := fun t h => ho ⟨t, h⟩
      rw [resetOf_other ho']
      have hsame : (match q.owner with
          | .tag _ =>
            if q.state = .queued ∨ q.state = .filling ∨ q.state = .delivering then Machine.detachPiece id s
            else Machine.modPiece id (fun p => { p with owner := .discard }) s
          | .move | .discard => s) = s := by
        cases h : q.owner with
        | tag t => exact absurd h (ho' t)
        | move => rfl
        | discard => rfl
      rw [hsame]
      exact ⟨.refl s, .of_eq rfl, rfl, hkeep hq⟩

theorem resetOf_idem (q : Piece) : (resetOf q).bind resetOf = resetOf q := by
  by_cases ho : ∃ t, q.owner = .tag t
  · obtain ⟨t, ho⟩ := ho
    rw [resetOf_tag ho]
    split
    · rfl
    · rw [Option.bind_some]
      exact resetOf_other fun _ h => nomatch h
  · have ho' : ∀ t, q.owner ≠ .tag t := fun t h => ho ⟨t, h⟩
    rw [resetOf_other ho']
    exact resetOf_other ho'

/-- R73: a link reset acts on some pieces. -/
def swept (l : List PieceId) (s : State) : State := l.foldl (fun s id => resetPiece id s) s

theorem swept_spec (l : List PieceId) (s : State) :
    Sweeps s (swept l s) ∧ ShadowsKept s (swept l s) ∧ (swept l s).xmp = s.xmp ∧
      ∀ j, pieceOf j (swept l s) = if j ∈ l then (pieceOf j s).bind resetOf else pieceOf j s := by
  induction l generalizing s with
  | nil => exact ⟨.refl s, .of_eq rfl, rfl, fun j => rfl⟩
  | cons id l ih =>
    obtain ⟨h1, h2, h3, h4⟩ := resetPiece_spec id s
    obtain ⟨k1, k2, k3, k4⟩ := ih (resetPiece id s)
    refine ⟨h1.trans k1, h2.trans k2 k1, k3.trans h3, fun j => ?_⟩
    have hstep : pieceOf j (swept (id :: l) s) = pieceOf j (swept l (resetPiece id s)) := rfl
    rw [hstep, k4, h4]
    by_cases hj : j = id
    · subst hj
      have hidem : ((pieceOf j s).bind resetOf).bind resetOf = (pieceOf j s).bind resetOf := by
        rw [Option.bind_assoc]
        exact Option.bind_congr fun q _ => resetOf_idem q
      simp [hidem]
    · simp [hj]

theorem mem_allPieces (j : PieceId) : j ∈ allPieces := List.mem_finRange j

/-- R73: no piece of a request is left. -/
def NoTags (s : State) : Prop := ∀ j q t, pieceOf j s = some q → q.owner ≠ .tag t

theorem NoTags.moveOver {s : State} (h : NoTags s) : NoTags (Machine.moveOver s) := h

theorem NoTags.swept (s : State) : NoTags (Machine.swept allPieces s) := by
  intro j q t h ho
  obtain ⟨-, -, -, hpiece⟩ := swept_spec allPieces s
  rw [hpiece, if_pos (mem_allPieces j)] at h
  obtain ⟨r, -, hr⟩ := Option.bind_eq_some_iff.mp h
  by_cases hro : ∃ t', r.owner = .tag t'
  · obtain ⟨t', hro⟩ := hro
    rw [resetOf_tag hro] at hr
    split at hr
    · nomatch hr
    · obtain rfl := Option.some.inj hr
      nomatch ho
  · rw [resetOf_other fun t' x => hro ⟨t', x⟩] at hr
    obtain rfl := Option.some.inj hr
    exact hro ⟨t, ho⟩

/-! ### The abort that sends nothing (R113) -/

theorem released_owner {q q' : Piece} (h : released q = some q') : q'.owner = q.owner ∨ q'.owner = .discard := by
  unfold released at h
  repeat' split at h
  all_goals simp only [reduceCtorEq, Option.some.injEq] at h
  all_goals subst h; simp

/-- R111: with no request's piece left an abort acts on a piece and on no request. -/
theorem abortPiece_sweeps {id : PieceId} {s : State} (h : NoTags s) :
    Sweeps s (abortPiece id s) ∧ NoTags (abortPiece id s) := by
  refine ⟨?_, fun j q t hj ho => ?_⟩
  · cases hq : pieceOf id s with
    | none => rw [abortPiece_none hq]; exact .refl s
    | some q =>
      rw [abortPiece_eq hq]
      split
      · split
        · exact .detachPiece id s
        · split
          · exact Sweeps.modPiece (id := id) (f := fun p => { p with owner := .discard }) (fun _ => rfl) s
          · exact Sweeps.modPiece (id := id) (f := fun p => { p with owner := .discard, shadow := none }) (fun _ => rfl) s
      · split
        · exact .refl s
        · split
          · rw [pieceEnds_other hq fun t => h id q t hq]
            exact .detachPiece id s
          · exact Sweeps.modPiece (id := id) (f := fun p => { p with shadow := none }) (fun _ => rfl) s
  · rw [abortPiece_pieceOf] at hj
    split at hj
    · obtain ⟨r, hr, hrel⟩ := Option.bind_eq_some_iff.mp hj
      obtain h' | h' := released_owner hrel
      · exact h id r t hr (h' ▸ ho)
      · nomatch h'.symm.trans ho
    · exact h j q t hj ho

theorem abortAll_sweeps (l : List PieceId) {s : State} (h : NoTags s) : Sweeps s (abortAll l s) ∧ NoTags (abortAll l s) := by
  induction l generalizing s with
  | nil => exact ⟨.refl s, h⟩
  | cons id l ih =>
    obtain ⟨h1, h2⟩ := abortPiece_sweeps (id := id) h
    obtain ⟨k1, k2⟩ := ih h2
    exact ⟨h1.trans k1, k2⟩

/-! ### PSC and MVE at a link reset -/

/-- R105: a piece on which the abort of the active move acts. -/
def Moved (u : State) (j : PieceId) : Prop := ∃ m, u.mve = some m ∧ (j ∈ m.shadows ∨ j ∈ u.psc.waiting)

/-- R73, R113: PSC and MVE at a link reset. -/
def trafficReset (u : State) : State := abortMove .failed .none 0 false (swept allPieces u)

theorem trafficReset_eq {u : State} {m : Move} (h : (swept allPieces u).mve = some m) :
    trafficReset u = abortAll (abortedPieces m (swept allPieces u)) (moveOver (swept allPieces u)) := by
  rw [trafficReset, abortMove_eq h, if_neg Bool.false_ne_true]
  rfl

theorem trafficReset_sweeps (u : State) : Sweeps u (trafficReset u) ∧ NoTags (trafficReset u) := by
  obtain ⟨hs, -⟩ := swept_spec allPieces u
  cases hm : (swept allPieces u).mve with
  | none =>
    rw [trafficReset, abortMove_idle hm]
    exact ⟨hs, NoTags.swept u⟩
  | some m =>
    obtain ⟨h1, h2⟩ := abortAll_sweeps (abortedPieces m (swept allPieces u)) (NoTags.swept u).moveOver
    rw [trafficReset_eq hm]
    exact ⟨(hs.trans (.moveOver _)).trans h1, h2⟩

/-- R110: the pieces of the move change neither MVE nor the map. -/
theorem abortAll_moveOver (l : List PieceId) (s : State) : (abortAll l (moveOver s)).mve = none ∧
    (abortAll l (moveOver s)).xmp = { s.xmp with active := settleMap s.xmp.active } := by
  have hi := abortPieces_inner l (moveOver s)
  have hnone : (abortAll l (moveOver s)).mve.isSome = false := congrArg (·.2.2.2) hi
  exact ⟨Option.isNone_iff_eq_none.mp (Option.isSome_eq_false_iff.mp hnone), congrArg (·.2.2.1) hi⟩

/-- R110, R113: the move is over and the map NORMAL. -/
theorem trafficReset_move (u : State) : (trafficReset u).mve = none ∧
    (trafficReset u).xmp = if u.mve.isSome then { u.xmp with active := settleMap u.xmp.active } else u.xmp := by
  obtain ⟨-, hk, hx, -⟩ := swept_spec allPieces u
  cases hu : u.mve with
  | none =>
    have hm := hk.idle hu
    rw [trafficReset, abortMove_idle hm]
    exact ⟨hm, hx⟩
  | some m =>
    obtain ⟨m', hm, -⟩ := hk.moves m hu
    obtain ⟨hnone, hmap⟩ := abortAll_moveOver (abortedPieces m' (swept allPieces u)) (swept allPieces u)
    rw [trafficReset_eq hm]
    refine ⟨hnone, hmap.trans ?_⟩
    rw [hx]
    rfl

theorem trafficReset_pieceOf {u : State} (j : PieceId) :
    (Moved u j → pieceOf j (trafficReset u) = ((pieceOf j u).bind resetOf).bind released) ∧
      (¬Moved u j → pieceOf j (trafficReset u) = (pieceOf j u).bind resetOf) := by
  obtain ⟨hs, hk, -, hpiece⟩ := swept_spec allPieces u
  have hswept : pieceOf j (swept allPieces u) = (pieceOf j u).bind resetOf := by rw [hpiece, if_pos (mem_allPieces j)]
  cases hm : (swept allPieces u).mve with
  | none =>
    have hkeep : trafficReset u = swept allPieces u := abortMove_idle hm ..
    rw [hkeep, hswept]
    refine ⟨fun ⟨m, hu, _⟩ => ?_, fun _ => rfl⟩
    obtain ⟨m', hm', -⟩ := hk.moves m hu
    nomatch hm.symm.trans hm'
  | some m' =>
    have hu : ∃ m, u.mve = some m := by
      cases hu : u.mve with
      | none => nomatch (hk.idle hu).symm.trans hm
      | some m => exact ⟨m, rfl⟩
    obtain ⟨m, hu⟩ := hu
    obtain ⟨m'', hm'', h1, h2⟩ := hk.moves m hu
    obtain rfl := Option.some.inj (hm.symm.trans hm'')
    have hall := moveReleased_pieceOf m' j (swept allPieces u)
    rw [hswept] at hall
    have heq : trafficReset u = moveReleased m' (swept allPieces u) := trafficReset_eq hm
    rw [heq, hall]
    refine ⟨fun ⟨m₁, hu₁, hj⟩ => ?_, fun hj => if_neg fun x => hj ⟨m, hu, x.imp (h1 j) (hs.waiting j)⟩⟩
    obtain rfl := Option.some.inj (hu.symm.trans hu₁)
    cases hp : (pieceOf j u).bind resetOf with
    | none =>
      rw [Option.bind_none]
      exact ite_self _
    | some q =>
      have hsome : (pieceOf j (swept allPieces u)).isSome := by
        rw [hswept, hp]
        rfl
      exact if_pos (hj.imp (fun x => h2 j x hsome) fun x => hs.waits j x hsome)

/-! ### The pieces of requests and of the move -/

/-- R73: a piece of a request that has not reached its medium is gone. -/
theorem trafficReset_early {u : State} {j : PieceId} {q : Piece} {t : Tag} (hq : pieceOf j u = some q) (ho : q.owner = .tag t)
    (hs : q.state = .queued ∨ q.state = .filling ∨ q.state = .delivering) : pieceOf j (trafficReset u) = none := by
  have hreset : (pieceOf j u).bind resetOf = none := by rw [hq, Option.bind_some, resetOf_tag ho, if_pos hs]
  obtain ⟨hmoved, hother⟩ := trafficReset_pieceOf (u := u) j
  by_cases hm : Moved u j
  · rw [hmoved hm, hreset]
    rfl
  · rw [hother hm, hreset]

/-- R73, R111: another piece of a request goes on for nobody, and an abort acts on it. -/
theorem trafficReset_late {u : State} {j : PieceId} {q : Piece} {t : Tag} (hq : pieceOf j u = some q) (ho : q.owner = .tag t)
    (hs : ¬(q.state = .queued ∨ q.state = .filling ∨ q.state = .delivering)) :
    (Moved u j → pieceOf j (trafficReset u) = released { q with owner := .discard }) ∧
      (¬Moved u j → pieceOf j (trafficReset u) = some { q with owner := .discard }) := by
  have hreset : (pieceOf j u).bind resetOf = some { q with owner := .discard } := by
    rw [hq, Option.bind_some, resetOf_tag ho, if_neg hs]
  obtain ⟨hmoved, hother⟩ := trafficReset_pieceOf (u := u) j
  exact ⟨fun hm => by rw [hmoved hm, hreset]; rfl, fun hm => by rw [hother hm, hreset]⟩

/-- R111: a piece of the move is released. -/
theorem trafficReset_copy {u : State} {j : PieceId} {q : Piece} (hq : pieceOf j u = some q) (ho : q.owner = .move)
    (hm : Moved u j) : pieceOf j (trafficReset u) = released q := by
  have hreset : (pieceOf j u).bind resetOf = some q := by
    rw [hq, Option.bind_some]
    exact resetOf_other fun _ h => nomatch ho.symm.trans h
  rw [(trafficReset_pieceOf j).1 hm, hreset]
  rfl

/-- R71: with its shadow over, a piece at a medium is left to itself. -/
theorem released_atMedia {q : Piece} (hs : q.state = .atMedia ∨ q.state = .verifying) :
    released { q with owner := .discard } = some { q with owner := .discard, shadow := none } := by
  have h1 : q.state ≠ .queued := by rintro h; rw [h] at hs; nomatch hs
  have h2 : q.state ≠ .shadow := by rintro h; rw [h] at hs; nomatch hs
  have h3 : q.state ≠ .shadowWait := by rintro h; rw [h] at hs; nomatch hs
  simp [released, h1, h2, h3]

theorem released_inShadow {q : Piece} (hs : q.state = .shadow) :
    released { q with owner := .discard } = some { q with owner := .discard } := by simp [released, hs]

/-! ### All blocks -/

/-- R178: the blocks after PSC and MVE have been reset. -/
def blocksReset (counts : Vector Nat 4) (s : State) : State :=
  let s := s.setSpa { s.spa with passOver := counts }
  let s := s.setRqt ⟨Vector.replicate 16 none, [], [], [], [], []⟩
  let s := s.setUlc ⟨s.ulc.tx.filter keptAtReset, [], Vector.replicate 16 []⟩
  let s := closeStaging s
  let s := s.setMst { s.mst with op := detachOp s.mst.op }
  let s := s.setPorts (mapVec detachPending s.ports)
  s.setMgu { s.mgu with
    exec := if s.mgu.exec = .stopped then .stopped else .idle, executing := none, buffer := Vector.replicate 2 none }

theorem linkResetTaken_eq (u : State) : Machine.linkResetTaken u = blocksReset u.spa.passOver (trafficReset u) := by
  unfold Machine.linkResetTaken resetTraffic blocksReset trafficReset swept
  dsimp only

/-- R73: what `LinkResetTaken` says of the pieces of requests. -/
theorem trafficReset_requests {u : State} {id : PieceId} {q : Piece} {t : Tag} (hq : pieceOf id u = some q)
    (ho : q.owner = .tag t) :
    (q.state = .queued ∨ q.state = .filling ∨ q.state = .delivering →
      pieceOf id (trafficReset u) = none ∧ ∀ k ∈ q.slots, k ∈ (trafficReset u).spa.free) ∧
    (q.state = .atMedia ∨ q.state = .verifying →
      (Moved u id → pieceOf id (trafficReset u) = some { q with owner := .discard, shadow := none }) ∧
      (¬Moved u id → pieceOf id (trafficReset u) = some { q with owner := .discard })) ∧
    (q.state = .shadow → pieceOf id (trafficReset u) = some { q with owner := .discard }) ∧
    (q.state = .shadowWait → q.kind = .wr →
      (Moved u id → pieceOf id (trafficReset u) = none ∧ ∀ k ∈ q.slots, k ∈ (trafficReset u).spa.free) ∧
      (¬Moved u id → pieceOf id (trafficReset u) = some { q with owner := .discard })) := by
  have hgone (h : pieceOf id (trafficReset u) = none) :
      pieceOf id (trafficReset u) = none ∧ ∀ k ∈ q.slots, k ∈ (trafficReset u).spa.free :=
    ⟨h, (trafficReset_sweeps u).1.gone id q hq h⟩
  refine ⟨fun h => hgone (trafficReset_early hq ho h), fun h => ?_, fun h => ?_, fun h hk => ?_⟩
  · obtain ⟨hmoved, hother⟩ := trafficReset_late hq ho (by rcases h with h | h <;> simp [h])
    exact ⟨fun hm => (hmoved hm).trans (released_atMedia h), hother⟩
  · obtain ⟨hmoved, hother⟩ := trafficReset_late hq ho (by simp [h])
    by_cases hm : Moved u id
    · exact (hmoved hm).trans (released_inShadow h)
    · exact hother hm
  · obtain ⟨hmoved, hother⟩ := trafficReset_late hq ho (by simp [h])
    have hkind : q.kind ≠ .cp := by rw [hk]; decide
    exact ⟨fun hm => hgone ((hmoved hm).trans (released_shadowWait hkind h)), hother⟩

/-- R111: what `LinkResetTaken` says of the pieces of the move. -/
theorem trafficReset_copies {u : State} {id : PieceId} {q : Piece} (hq : pieceOf id u = some q) (ho : q.owner = .move)
    (hk : q.kind = .cp) (hm : Moved u id) :
    (q.state = .queued → pieceOf id (trafficReset u) = none ∧ ∀ k ∈ q.slots, k ∈ (trafficReset u).spa.free) ∧
    (q.state = .atMedia → pieceOf id (trafficReset u) = some { q with owner := .discard, shadow := none }) ∧
    (q.state = .shadow → pieceOf id (trafficReset u) = some { q with owner := .discard }) := by
  have hcopy := trafficReset_copy hq ho hm
  refine ⟨fun h => ?_, fun h => hcopy.trans ?_, fun h => hcopy.trans (released_cp_shadow hk h)⟩
  · have hnone := hcopy.trans (released_cp_queued hk h)
    exact ⟨hnone, (trafficReset_sweeps u).1.gone id q hq hnone⟩
  · exact released_cp_other hk (by rw [h]; decide) (by rw [h]; decide)

theorem blocksReset_port (counts : Vector Nat 4) (s : State) (p : PortId) :
    portOf p (blocksReset counts s) = detachPending (portOf p s) := mapVec_get ..

/-- Settles O31: the pieces of requests go first, then those of the move, and every block starts again. -/
theorem Settled.linkResetTaken : Obligations.LinkResetTaken := by
  intro s u hs
  obtain ⟨hsw, htags⟩ := trafficReset_sweeps u
  obtain ⟨hmve, hxmp⟩ := trafficReset_move u
  have hrequests := @trafficReset_requests u
  have hcopies := @trafficReset_copies u
  have hexec : exec .linkReset s = .next (finish (Machine.linkResetTaken u)) :=
    congrArg Host.Outcome.next (event_at hs Machine.linkResetTaken)
  rw [linkResetTaken_eq] at hexec
  generalize trafficReset u = v at *
  refine ⟨blocksReset u.spa.passOver v, hexec, fun t => ?_, rfl, rfl, rfl, rfl, rfl, rfl, fun t => ?_, ?_,
    fun id q t hq ho => hrequests hq ho,
    fun id q m hq ho hk hu hsh => hcopies hq ho hk ⟨m, hu, .inl hsh⟩, hsw.queues,
    fun j q hj t => htags j q t hj, hsw.pointer, rfl,
    fun p => ?_, hmve, ?_, rfl, rfl, fun i => ?_, ?_, ?_, ?_, ?_, ?_⟩
  · simp [entryOf, blocksReset, closeStaging]
  · simp [blocksReset, closeStaging]
  · refine hsw.kept.trans (List.filter_congr fun f _ => ?_)
    cases f <;> rfl
  · have hp : portOf p v = portOf p u := congrArg (·[p]) hsw.ports
    rw [blocksReset_port, hp]
    generalize portOf p u = x
    unfold detachPending
    cases h : x.offlinePending with
    | no => simp only [h.symm]
    | yes t => rfl
  · show v.xmp.generation = _
    rw [hxmp]
    split <;> rfl
  · show v.xmp.active[i] = _
    rw [hxmp]
    split
    · exact settleMap_get ..
    · rfl
  · have hmgu : v.mgu = u.mgu := congrArg (·.1) hsw.outer
    rw [← hmgu]
    rfl
  · have hmst : v.mst = u.mst := congrArg (·.2.2.1) hsw.control
    rw [← hmst]
    show { v.mst with op := detachOp v.mst.op } = _
    unfold detachOp
    cases v.mst.op <;> rfl
  · exact congrArg (·.2.2.2.1) hsw.control
  · exact congrArg (·.2) hsw.outer
  · exact congrArg (·.2.1) hsw.control

end Sys2Proof.Machine
end

section
/-! SUPPORT. A piece that is cut on a port out of service fails at its cut; the steps of a FLUSH (R18, R47, R48, R57). -/

namespace Sys2Proof.Machine

/-! ### A piece just cut -/

/-- R54: the pieces, the order of SHADOW_WAIT and the grants of `v` are those of `s`, but for a piece just cut. -/
structure JustCut (id : PieceId) (s v : State) : Prop where
  free : pieceOf id s = none
  others : ∀ j, j ≠ id → pieceOf j v = pieceOf j s
  waiting : v.psc.waiting = s.psc.waiting
  grants : v.ulc.grants = s.ulc.grants

namespace JustCut

variable {id : PieceId} {s v w : State}

theorem ne (h : JustCut id s v) {j : PieceId} {r : Piece} (hj : pieceOf j s = some r) : j ≠ id := by
  rintro rfl
  nomatch h.free.symm.trans hj

theorem piecesDropped (h : JustCut id s v) {t : Tag} {drops : Piece → Bool} (x : Option PieceId)
    (hd : PiecesDropped t (some id) drops v w) : PiecesDropped t x drops s w := by
  intro j r _ hwait hr ho hdrop
  have hne := h.ne hr
  obtain ⟨hgone, hgrants, hframes⟩ := hd j r (fun e => hne (Option.some.inj e)) (h.waiting ▸ hwait)
    ((h.others j hne).trans hr) ho hdrop
  exact ⟨hgone, fun g hg => hgrants g (h.grants ▸ hg), hframes⟩

/-- With its move still there, or none, what runs on does so as it was. -/
theorem piecesRunOn (h : JustCut id s v) {t : Tag} {drops : Piece → Bool} (x : Option PieceId)
    (hm : w.mve.isSome = v.mve.isSome) (hd : PiecesRunOn t (some id) drops v w) : PiecesRunOn t x drops s w := by
  intro j r _ hr ho hkept
  have hne := h.ne hr
  obtain hj | ⟨m, hv, hw, -⟩ := hd j r (fun e => hne (Option.some.inj e)) ((h.others j hne).trans hr) ho hkept
  · exact .inl hj
  · rw [hv, hw] at hm
    nomatch hm

/-- R54: what a count over the other pieces finds. -/
theorem any_eq (h : JustCut id s v) (p : Piece → Bool) (j : PieceId) :
    (decide (some j ≠ some id) && (pieceOf j v).any p) = (decide (some j ≠ none) && (pieceOf j s).any p) := by
  by_cases hj : j = id
  · subst hj
    simp [h.free]
  · have hne : some j ≠ some id := fun e => hj (Option.some.inj e)
    rw [h.others j hj, decide_eq_true hne]
    rfl

end JustCut

/-- R57: a piece joins the end of a queue. -/
theorem joinQueue_queueOf (p : PortId) (id : PieceId) (s : State) : queueOf p (joinQueue p id s) = queueOf p s ++ [id] :=
  Vector.getElem_set_self ..

/-- R57: a request's piece cut on a port out of service fails there. -/
theorem sourceFails_tag {id : PieceId} {q : Piece} {t : Tag} {s : State} (h : pieceOf id s = some q) (ho : q.owner = .tag t)
    (k : Nat) (c : Cause) : sourceFails id k c s = failedEnd id k c s := by
  have hmove : ¬q.owner = .move := by rw [ho]; exact nofun
  rw [sourceFails_eq h, if_neg hmove]
  rfl

/-! ### FLUSH (R18, R47) -/

theorem exec_flushResolution (s : State) : exec .flushResolution s = .next (ownStep flushStep s) := rfl
theorem exec_flPieceCut (s : State) : exec .flPieceCut s = .next (ownStep flCutStep s) := rfl

theorem readyFlush_none {s : State} (h : ∀ t ∈ s.rqt.barrier, ∀ e, entryOf t s = some e → e.waitSet ≠ []) :
    readyFlush s = none := by
  refine List.find?_eq_none.mpr fun t ht hany => ?_
  obtain ⟨e, he, hw⟩ := (Option.any_eq_true ..).mp hany
  exact h t ht e he (of_decide_eq_true hw)

/-- R47: the FLUSH that arrived first among those that wait for nothing. -/
theorem readyFlush_some {s : State} {t : Tag} {before after : List Tag} {e : Entry} (hb : s.rqt.barrier = before ++ t :: after)
    (hfirst : ∀ t' ∈ before, ∀ e', entryOf t' s = some e' → e'.waitSet ≠ []) (he : entryOf t s = some e)
    (hw : e.waitSet = []) : readyFlush s = some t := by
  have hbefore : before.find? (fun t => (entryOf t s).any fun e => decide (e.waitSet = [])) = none := by
    refine List.find?_eq_none.mpr fun t' ht' hany => ?_
    obtain ⟨e', he', hw'⟩ := (Option.any_eq_true ..).mp hany
    exact hfirst t' ht' e' he' (of_decide_eq_true hw')
  have hself : ((entryOf t s).any fun e => decide (e.waitSet = [])) = true := by
    rw [he]
    exact decide_eq_true hw
  rw [readyFlush, hb, List.find?_append, hbefore, Option.none_or]
  exact List.find?_cons_of_pos hself

theorem flushStep_none {s : State}
    (h : s.svm.partState = .loading ∨ ∀ t ∈ s.rqt.barrier, ∀ e, entryOf t s = some e → e.waitSet ≠ []) :
    flushStep s = none := by
  unfold flushStep
  obtain h | h := h
  · exact if_pos h
  · rw [readyFlush_none h]
    exact ite_self _

theorem flushStep_some {s : State} {t : Tag} {e : Entry} (hl : s.svm.partState ≠ .loading) (ht : readyFlush s = some t)
    (he : entryOf t s = some e) : flushStep s = some (resolveFlush t e s) := by
  unfold flushStep
  rw [if_neg hl, ht]
  simp only [he, Option.map_some]

/-- R18: the ports of a unit and of the destination of its move. -/
theorem flushPorts_eq (s : State) (unit : Byte) : flushPorts s.xmp.active s.mve unit = allPorts.filter fun p =>
    (∃ i : Fin 64, s.xmp.active[i].used = 1 ∧ s.xmp.active[i].unit = unit ∧ extentPort s.xmp.active[i] = p) ∨
      (∃ m, s.mve = some m ∧ m.unit = unit ∧ m.dstPort = p) := by
  refine List.filter_congr fun p _ => ?_
  rw [Bool.eq_iff_iff, Bool.or_eq_true, decide_eq_true_iff]
  refine or_congr ?_ ?_
  · rw [List.any_eq_true]
    simp only [Vector.mem_toList_iff, Vector.mem_iff_getElem, Bool.and_eq_true, decide_eq_true_iff, isUsed]
    constructor
    · rintro ⟨x, ⟨i, hi, rfl⟩, ⟨hu, hn⟩, hp⟩
      exact ⟨⟨i, hi⟩, hu, hn, hp⟩
    · rintro ⟨i, hu, hn, hp⟩
      exact ⟨_, ⟨i.val, i.isLt, rfl⟩, ⟨hu, hn⟩, hp⟩
  · rw [Option.any_eq_true]
    simp only [Bool.and_eq_true, decide_eq_true_iff]

theorem resolveFlush_bare {t : Tag} {e : Entry} {s : State} (h : s.svm.partState = .bare) :
    resolveFlush t e s = complete t .refused .noMap 0 0 s := if_pos h

theorem resolveFlush_good {t : Tag} {e : Entry} {s : State} (h : s.svm.partState ≠ .bare)
    (hp : flushPorts s.xmp.active s.mve e.unit = []) : resolveFlush t e s = complete t .good .none 0 0 s := by
  unfold resolveFlush
  rw [if_neg h]
  simp only [hp]

/-- R47: a FLUSH that has ports to flush. -/
theorem resolveFlush_active {t : Tag} {e : Entry} {s : State} {ports : List PortId} (h : s.svm.partState ≠ .bare)
    (hp : flushPorts s.xmp.active s.mve e.unit = ports) (hne : ports ≠ []) :
    resolveFlush t e s = s.setRqt { s.rqt with
      entries := s.rqt.entries.set t (some { e with state := .active, flPorts := ports.map fun p => (p, .uncut) })
      barrier := leaveSet t s.rqt.barrier, flushing := s.rqt.flushing ++ [t] } := by
  unfold resolveFlush
  rw [if_neg h]
  cases ports with
  | nil => exact absurd rfl hne
  | cons p ps =>
    simp only [hp]
    rfl

/-! ### FL pieces (R48) -/

/-- R48: the entry of a FLUSH that has cut the piece of a port. -/
def flCutEntry (p : PortId) (e : Entry) : Entry := markPort p .cut { e with notEnded := e.notEnded + 1 }

theorem uncutPort_isNone (e : Entry) : (uncutPort e).isNone = !e.flPorts.any fun x => decide (x.2 = .uncut) := by
  rw [Bool.eq_iff_iff]
  simp [uncutPort]

/-- R48: the FLUSHes that have ports left to cut, once the one under `t` has the entry `e`. -/
def flushingAfter (t : Tag) (e : Entry) (s : State) : List Tag :=
  if e.flPorts.any fun x => decide (x.2 = .uncut) then s.rqt.flushing else leaveSet t s.rqt.flushing

/-- R48: the part once a FLUSH has cut the piece of a port, which is not placed yet. -/
def flCut (t : Tag) (p : PortId) (id : PieceId) (e : Entry) (s : State) : State :=
  (setPiece id (some (flPiece t p)) s).setRqt { s.rqt with
    entries := s.rqt.entries.set t (some (flCutEntry p e)), flushing := flushingAfter t (flCutEntry p e) s }

theorem flCutStep_none {s : State} (h : s.rqt.flushing = [] ∨ ∀ id, pieceOf id s ≠ none) : flCutStep s = none := by
  unfold flCutStep
  split
  · next t rest id hf hid =>
    obtain h | h := h
    · nomatch hf.symm.trans h
    · nomatch hid.symm.trans (lowestFree_none h)
  · rfl

theorem flCutStep_some {s : State} {t : Tag} {rest : List Tag} {e : Entry} {p : PortId} {id : PieceId}
    (hf : s.rqt.flushing = t :: rest) (hid : LowestFree id s) (he : entryOf t s = some e) (hp : uncutPort e = some p) :
    flCutStep s = some (placePiece id p (flCut t p id e s)) := by
  have hcut : flCut t p id e s = if (uncutPort (flCutEntry p e)).isNone then
      (setPiece id (some (flPiece t p)) (setEntry t (some (flCutEntry p e)) s)).setRqt
        { (setEntry t (some (flCutEntry p e)) s).rqt with flushing := leaveSet t s.rqt.flushing }
      else setPiece id (some (flPiece t p)) (setEntry t (some (flCutEntry p e)) s) := by
    rw [uncutPort_isNone]
    unfold flCut flushingAfter
    cases (flCutEntry p e).flPorts.any fun x => decide (x.2 = .uncut) <;> rfl
  unfold flCutStep
  rw [hf, lowestFree_of hid]
  dsimp only
  rw [he]
  dsimp only
  rw [hp, hcut]
  rfl

section Cut

variable {s : State} {t : Tag} {e : Entry} {p : PortId} {id : PieceId}

theorem flCut_self : pieceOf id (flCut t p id e s) = some (flPiece t p) := pieceOf_setPiece_self ..

theorem flCut_entryOf : entryOf t (flCut t p id e s) = some (flCutEntry p e) :=
  entryOf_setEntry_self t (some (flCutEntry p e)) s

theorem flCut_justCut (hid : LowestFree id s) : JustCut id s (flCut t p id e s) where
  free := hid.1
  others _ h := pieceOf_setPiece_ne h _ s
  waiting := rfl
  grants := rfl

theorem flPorts_failed : (flCutEntry p e).flPorts.map (fun x => if x.1 = p then (x.1, FlMark.failed) else x) =
    e.flPorts.map fun x => if x.1 = p then (x.1, .failed) else x := by
  rw [flCutEntry, markPort, List.map_map]
  refine List.map_congr_left fun x _ => ?_
  by_cases h : x.1 = p <;> simp [h]

/-- R48: the pieces that a FLUSH drops when it is stopped do not count the one just cut. -/
theorem flushStopped_justCut {v : State} (h : JustCut id s v) (e : Entry) :
    flushStopped t (some id) v e = flushStopped t none s e := by
  unfold flushStopped
  have hleaves (j : PieceId) := h.any_eq (fun q => decide (q.owner = .tag t) && decide (q.state = .queued)) j
  have hport (x : PortId) (j : PieceId) : ((decide (some j ≠ none) && (pieceOf j s).any fun q =>
      decide (q.owner = .tag t) && decide (q.state = .queued)) && (pieceOf j v).any fun q => decide (q.port = x)) =
      ((decide (some j ≠ none) && (pieceOf j s).any fun q =>
      decide (q.owner = .tag t) && decide (q.state = .queued)) && (pieceOf j s).any fun q => decide (q.port = x)) := by
    by_cases hj : j = id
    · rw [hj, h.free]
      rfl
    · rw [h.others j hj]
  simp only [hleaves, hport]

/-- R48: the entry of a FLUSH whose piece has failed at its cut. -/
theorem flushFailed_cut (hid : LowestFree id s) (c : Cause) :
    flushFailed t (some id) p c (flCut t p id e s) { flCutEntry p e with notEnded := (flCutEntry p e).notEnded - 1 } =
      flushFailed t none p c s e := by
  unfold flushFailed
  simp only [flushStopped_justCut (flCut_justCut hid)]
  rw [flPorts_failed]
  rfl

end Cut

/-- R48: with its first failure a FLUSH has no port left to cut. -/
theorem failedEnd_notFlushing {t : Tag} {e : Entry} {id : PieceId} {q : Piece} {u : State} (h : pieceOf id u = some q)
    (ho : q.owner = .tag t) (he : entryOf t u = some e) (hk : e.kind = .flush) (hf : e.failure = none) (k : Nat) (c : Cause) :
    t ∉ (failedEnd id k c u).rqt.flushing := by
  have hentry : entryOf t (failedLeft id k c u) = some e := (failedLeft_entryOf k c t).trans he
  have hfirst : failedEnd id k c u = tryComplete t (stopFlush t (firstFlushFailure t e q c (failedLeft id k c u))) := by
    rw [failedEnd_eq h ho, requestOutcome, hentry]
    exact (if_pos hk).trans (if_pos ((congrArg Option.isNone hf).trans rfl))
  rw [hfirst]
  exact fun hmem => stopFlush_notMem _ ((tryComplete_lists t t _).2 hmem)

/-- Settles O51: a FLUSH leaves BARRIER by what there is to flush, and its pieces join their queues or fail at once. -/
theorem flushSteps : Obligations.FlushSteps := by
  refine fun s hr => ⟨fun h => ?_, fun t before after e hl hb hfirst he hw => ?_, fun h => ?_,
    fun t rest e p id hf he hk hactive hport hid => ?_⟩
  · rw [exec_flushResolution, ownStep_none hr (flushStep_none h)]
  · intro ports
    have hports : flushPorts s.xmp.active s.mve e.unit = ports := flushPorts_eq ..
    have hexec : exec .flushResolution s = .next (finish (resolveFlush t e s)) :=
      congrArg Host.Outcome.next (ownStep_some hr (flushStep_some hl (readyFlush_some hb hfirst he hw) he))
    refine ⟨fun cause o hcase => ?_, fun hbare hne => ?_⟩
    · have hdone : resolveFlush t e s = complete t o cause 0 0 s := by
        obtain ⟨hbare, rfl, rfl⟩ | ⟨hbare, hnone, rfl, rfl⟩ := hcase
        · exact resolveFlush_bare hbare
        · exact resolveFlush_good hbare (hports.trans hnone)
      rw [hdone] at hexec
      exact ⟨_, hexec, complete_answers .., .complete ⟨rfl, rfl, rfl, rfl, rfl, rfl, rfl⟩ .., .complete ⟨rfl, rfl, rfl, rfl⟩ ..⟩
    · rw [hexec, resolveFlush_active hbare hports hne]
  · rw [exec_flPieceCut, ownStep_none hr (flCutStep_none h)]
  · intro q e'
    have huncut : uncutPort e = some p := congrArg (Option.map (Prod.fst : PortId × FlMark → PortId)) hport
    have hexec : exec .flPieceCut s = .next (finish (placePiece id p (flCut t p id e s))) :=
      congrArg Host.Outcome.next (ownStep_some hr (flCutStep_some hf hid he huncut))
    have hservice : inService p (flCut t p id e s) ↔ inService p s := Iff.rfl
    have hjust := flCut_justCut (t := t) (p := p) (e := e) hid
    refine ⟨_, hexec, fun hin => ?_, fun hout => ?_⟩
    · rw [placePiece_joins (hservice.mpr hin)]
      exact ⟨flCut_self (e := e), joinQueue_queueOf .., flCut_entryOf (id := id), rfl, rfl, rfl, rfl, rfl, rfl, rfl, rfl⟩
    · have hself : pieceOf id (flCut t p id e s) = some (flPiece t p) := flCut_self
      have hcause : serviceCause p (flCut t p id e s) = serviceCause p s := rfl
      rw [placePiece_fails (mt hservice.mp hout), sourceFails_tag hself rfl, hcause]
      obtain ⟨hmanagement, hmoves, -⟩ := failedEnd_onTraffic (id := id) (u := flCut t p id e s) 0 (serviceCause p s)
      obtain ⟨hentry, hdropped, hruns⟩ :=
        failedEnd_flushFailed hself rfl flCut_entryOf hk (.inl hactive) 0 (serviceCause p s)
      refine ⟨failedEnd_pieceGone hself 0 _, ?_, hjust.piecesDropped none hdropped, hjust.piecesRunOn none hmoves hruns,
        fun hfail => failedEnd_notFlushing hself rfl flCut_entryOf hk hfail 0 _, hmanagement⟩
      have hfailed := flushFailed_cut (t := t) (e := e) (p := p) hid (serviceCause p s)
      exact hfailed ▸ hentry

end Sys2Proof.Machine
end

section
/-! SUPPORT. The cutter (R54 to R57). -/

namespace Sys2Proof.Machine

theorem exec_cutEvent (s : State) : exec .cutEvent s = .next (ownEvent cutStep s) := rfl

/-! ### Free records and other claims (R54) -/

theorem freeRecords_eq (s : State) : freeRecords s = allPieces.countP fun j => (pieceOf j s).isNone := by
  have hlist : s.psc.pieces.toList = allPieces.map fun j => pieceOf j s := by
    refine List.ext_getElem (by simp [allPieces]) fun i _ _ => ?_
    simp [allPieces, pieceOf]
  rw [freeRecords, hlist, List.countP_map]
  rfl

theorem claimWaits_iff {s : State} :
    claimWaits s = true ↔ s.rqt.flushing ≠ [] ∨ ∃ m n, s.mve = some m ∧ m.chunk = some ⟨n, .claim⟩ := by
  unfold claimWaits
  rw [Bool.or_eq_true, decide_eq_true_iff]
  refine or_congr .rfl ?_
  rw [Option.any_eq_true]
  refine exists_congr fun m => ?_
  rw [exists_and_left]
  refine and_congr .rfl ?_
  rw [Option.any_eq_true]
  constructor
  · rintro ⟨⟨n, phase⟩, hc, hphase⟩
    exact ⟨n, of_decide_eq_true (p := phase = .claim) hphase ▸ hc⟩
  · rintro ⟨n, hc⟩
    exact ⟨_, hc, decide_eq_true rfl⟩

theorem cutStep_none {s : State} (h : freeRecords s ≤ 4 ∨ claimWaits s = true ∨ s.rqt.active = []) : cutStep s = none := by
  unfold cutStep
  split
  · rfl
  · next hn =>
    rw [not_or] at hn
    obtain h | h | h := h
    · exact absurd h hn.1
    · exact absurd h hn.2
    · rw [h]

/-! ### The part after a cut (R55, R105) -/

/-- R105: the move once a piece with a shadow part has joined its shadow set. -/
def shadowJoined (id : PieceId) (q : Piece) (mve : Option Move) : Option Move :=
  if q.shadow.isSome then mve.map fun m => { m with shadows := joinSet id m.shadows } else mve

/-- R55: the requests to cut, once the one under `t` has the entry `e`. -/
def activeAfter (t : Tag) (e : Entry) (s : State) : List Tag :=
  if cuttable e then s.rqt.active else leaveSet t s.rqt.active

/-- R55: the part once the piece `q` has been cut, which leaves the request with the entry `e`; it is not placed yet. -/
def dataCut (t : Tag) (e : Entry) (id : PieceId) (q : Piece) (s : State) : State :=
  ((setPiece id (some q) s).setRqt { s.rqt with
    entries := s.rqt.entries.set t (some e), active := activeAfter t e s }).setMve (shadowJoined id q s.mve)

theorem joinShadows_eq (id : PieceId) (q : Piece) (s : State) : joinShadows id q s = s.setMve (shadowJoined id q s.mve) := by
  unfold joinShadows shadowJoined
  split <;> rfl

theorem trimActive_eq {t : Tag} {e : Entry} {s : State} (h : entryOf t s = some e) :
    trimActive t s = s.setRqt { s.rqt with active := activeAfter t e s } := by
  simp only [trimActive, h, activeAfter]
  split <;> rfl

theorem dataCut_eq (t : Tag) (e : Entry) (id : PieceId) (q : Piece) (s : State) :
    trimActive t (joinShadows id q (setPiece id (some q) (setEntry t (some e) s))) = dataCut t e id q s := by
  rw [joinShadows_eq]
  exact trimActive_eq (entryOf_setEntry_self t (some e) s)

/-- R55: one cut. -/
theorem cutStep_some {s : State} {t : Tag} {rest : List Tag} {e : Entry} {g : Segment} {id : PieceId}
    (hfree : 4 < freeRecords s) (hclaim : ¬claimWaits s = true) (hactive : s.rqt.active = t :: rest)
    (he : entryOf t s = some e) (hg : e.segments[e.cutSeg]? = some g) (hcut : cuttable e = true) (hid : LowestFree id s) :
    cutStep s = some (placePiece id g.port
      (dataCut t (afterCut e g (pieceCount e g)) id (nextPiece s.mve t e g) s)) := by
  have hgo : ¬(freeRecords s ≤ Config.heldBackRecords ∨ claimWaits s = true) := fun h =>
    h.elim (fun h => absurd hfree (Nat.not_lt.mpr h)) hclaim
  unfold cutStep
  rw [if_neg hgo, hactive, lowestFree_of hid]
  dsimp only
  rw [he]
  dsimp only
  rw [hg]
  dsimp only
  rw [if_pos hcut, ← dataCut_eq]
  rfl

section Cut

variable {s : State} {t : Tag} {e : Entry} {q : Piece} {id : PieceId}

theorem dataCut_self : pieceOf id (dataCut t e id q s) = some q := pieceOf_setPiece_self ..

theorem dataCut_entryOf : entryOf t (dataCut t e id q s) = some e := entryOf_setEntry_self t (some e) s

theorem dataCut_justCut (hid : LowestFree id s) : JustCut id s (dataCut t e id q s) where
  free := hid.1
  others _ h := pieceOf_setPiece_ne h _ s
  waiting := rfl
  grants := rfl

theorem shadowJoined_isSome (id : PieceId) (q : Piece) (mve : Option Move) : (shadowJoined id q mve).isSome = mve.isSome := by
  unfold shadowJoined
  split
  · exact Option.isSome_map
  · rfl

theorem mem_joinSet {α : Type} [DecidableEq α] (x : α) (l : List α) : x ∈ joinSet x l := by
  unfold joinSet
  split
  · assumption
  · simp

theorem shadowJoined_mem {m : Move} (hq : q.shadow.isSome) :
    ∃ m', shadowJoined id q (some m) = some m' ∧ id ∈ m'.shadows :=
  ⟨{ m with shadows := joinSet id m.shadows }, if_pos hq, mem_joinSet ..⟩

end Cut

/-! ### The piece that is cut (R55, R56) -/

section Piece

variable {mve : Option Move} {t : Tag} {e : Entry} {g : Segment}

theorem cutOffset_of (hg : e.segments[e.cutSeg]? = some g) : cutOffset e = g.offset + e.cutOff := by
  simp only [cutOffset, hg]

theorem afterCut_eq (n : Nat) : afterCut e g n = { e with
    notEnded := e.notEnded + 1
    cutSeg := if e.cutOff + n = g.length then e.cutSeg + 1 else e.cutSeg
    cutOff := if e.cutOff + n = g.length then 0 else e.cutOff + n } := by
  unfold afterCut
  split <;> rfl

theorem shadowFor_cut {m : Move} {n : Nat} (h : e.unit = m.unit ∧ m.lstart ≤ e.lba.toNat + g.offset + e.cutOff ∧
    e.lba.toNat + g.offset + e.cutOff + n ≤ m.lstart + m.length ∧ t ∈ m.dual) : shadowFor (some m) t e g e.cutOff n =
      match g.target with
      | .single => none
      | .dual p st => some ⟨p, st + e.cutOff, false, .pending⟩
      | .dualAfterChunk p st => some ⟨p, st + e.cutOff, true, .pending⟩ := if_pos h

theorem shadowFor_none {n : Nat} (h : g.target = .single ∨ mve = none ∨ ∃ m, mve = some m ∧ t ∉ m.dual) :
    shadowFor mve t e g e.cutOff n = none := by
  cases mve with
  | none => rfl
  | some m =>
    dsimp only [shadowFor]
    split
    · next hd =>
      obtain h | h | ⟨m', hm, hnot⟩ := h
      · rw [h]
      · nomatch h
      · obtain rfl := Option.some.inj hm
        exact absurd hd.2.2.2 hnot
    · rfl

theorem nextPiece_shadow_none (h : g.target = .single ∨ e.kind ≠ .write ∨ mve = none ∨ ∃ m, mve = some m ∧ t ∉ m.dual) :
    (nextPiece mve t e g).shadow = none := by
  show (if e.kind = .write then shadowFor mve t e g e.cutOff (pieceCount e g) else none) = none
  split
  · next hk =>
    exact shadowFor_none (h.imp_right fun h => h.resolve_left fun h => h hk)
  · rfl

/-- R56: a piece has a shadow part in a move only. -/
theorem nextPiece_shadow_move (h : (nextPiece mve t e g).shadow.isSome) : ∃ m, mve = some m := by
  cases mve with
  | some m => exact ⟨m, rfl⟩
  | none =>
    rw [nextPiece_shadow_none (.inr (.inr (.inl rfl)))] at h
    nomatch h

end Piece

/-- R34 to R36: a piece that fails at its cut. -/
theorem JustCut.pieceFailed {id : PieceId} {s v w : State} {t : Tag} {e : Entry} {f : Nat} {c : Cause} (h : JustCut id s v)
    (hm : w.mve.isSome = v.mve.isSome) (hf : PieceFailed t e id f c v w) : PieceFailed t e id f c s w := by
  obtain ⟨hfailure, hdropped, hruns⟩ := hf
  have hdrained : drained t id f v = drained t id f s := by
    refine List.countP_congr fun j _ => ?_
    have hany := h.any_eq (fun q => decide (q.owner = .tag t) && drainedBy f q) j
    by_cases hj : j = id
    · simp [hj]
    · rw [h.others j hj]
  refine ⟨?_, h.piecesDropped _ hdropped, h.piecesRunOn _ hm hruns⟩
  unfold FailureAtRequest at hfailure ⊢
  rw [hdrained] at hfailure
  exact hfailure

/-- Settles O50: the cutter cuts at the front of the active list, and the piece joins its queue or fails at once. -/
theorem cutterCuts : Obligations.CutterCuts := by
  intro s u hr hu free claimed
  have hcount : freeRecords u = free := freeRecords_eq u
  have hclaims : claimWaits u = true ↔ claimed := claimWaits_iff
  refine ⟨fun h => ?_, fun t rest e g id hfree hclaim hactive he hres hg hcut hid => ?_⟩
  · rw [exec_cutEvent, ownEvent_none hr hu (cutStep_none (hcount ▸ h.imp_right (Or.imp_left hclaims.mpr)))]
  · intro n lba e'
    have hexec : exec .cutEvent s = .next (finish (placePiece id g.port
        (dataCut t (afterCut e g (pieceCount e g)) id (nextPiece u.mve t e g) u))) :=
      congrArg Host.Outcome.next (ownEvent_some hr hu
        (cutStep_some (hcount ▸ hfree) (mt hclaims.mp hclaim) hactive he hg hcut hid))
    have hn : pieceCount e g = n := by rw [pieceCount, cutOffset_of hg]; rfl
    have he' : afterCut e g (pieceCount e g) = e' := by rw [hn, afterCut_eq]
    rw [he'] at hexec
    have hself : pieceOf id (dataCut t e' id (nextPiece u.mve t e g) u) = some (nextPiece u.mve t e g) := dataCut_self
    have hentry : entryOf t (dataCut t e' id (nextPiece u.mve t e g) u) = some e' := dataCut_entryOf
    have hjust : JustCut id u (dataCut t e' id (nextPiece u.mve t e g) u) := dataCut_justCut hid
    have hservice : inService g.port (dataCut t e' id (nextPiece u.mve t e g) u) ↔ inService g.port u := Iff.rfl
    have hcause : serviceCause g.port (dataCut t e' id (nextPiece u.mve t e g) u) = serviceCause g.port u := rfl
    refine ⟨_, nextPiece u.mve t e g, hexec, rfl, rfl, rfl, hn, cutOffset_of hg, rfl, rfl, rfl, rfl, ?_,
      fun m a b hm hk hunit hlo hhi hdual => ?_, nextPiece_shadow_none, fun hin => ?_, fun hout => ?_⟩
    · show pieceKind e.kind = _
      cases e.kind <;> rfl
    · have hshadow : (nextPiece u.mve t e g).shadow = _ :=
        (if_pos hk).trans ((congrArg (shadowFor · t e g e.cutOff (pieceCount e g)) hm).trans
          (shadowFor_cut ⟨hunit, hlo, hn ▸ hhi, hdual⟩))
      exact ⟨fun htarget => by rw [hshadow, htarget], fun htarget => by rw [hshadow, htarget]⟩
    · rw [placePiece_joins (hservice.mpr hin)]
      refine ⟨hself, joinQueue_queueOf .., hentry, rfl, fun hsh => ?_⟩
      obtain ⟨m, hm⟩ := nextPiece_shadow_move hsh
      have hmve : (dataCut t e' id (nextPiece u.mve t e g) u).mve = shadowJoined id (nextPiece u.mve t e g) (some m) :=
        congrArg (shadowJoined id (nextPiece u.mve t e g)) hm
      obtain ⟨m', hm', hmem⟩ := shadowJoined_mem (id := id) (m := m) hsh
      exact ⟨m', hmve.trans hm', hmem⟩
    · rw [placePiece_fails (mt hservice.mp hout), sourceFails_tag hself rfl, hcause]
      obtain ⟨-, hmoves, -⟩ :=
        failedEnd_onTraffic (id := id) (u := dataCut t e' id (nextPiece u.mve t e g) u) 0 (serviceCause g.port u)
      exact ⟨failedEnd_pieceGone hself 0 _,
        hjust.pieceFailed hmoves (failedEnd_pieceFailed hself rfl hentry hres 0 _),
        hmoves.trans (shadowJoined_isSome ..)⟩

end Sys2Proof.Machine
end

section
/-! SUPPORT. The switch of a move (R106, R107), and the switch that precedes the exit of a port (R93, R97). -/

namespace Sys2Proof.Machine

theorem exec_moveSwitch (s : State) : exec .moveSwitch s = .next (ownStep switchStep s) := rfl

theorem exec_mediaStsOk {s u : State} (hs : StandsAt s u) (p : PortId) :
    exec (.mediaStsOk p true) s = .next (finish (statusOk p u)) :=
  congrArg Host.Outcome.next (event_at hs (ifChecked true (statusOk p)))

/-! ### The switch (R106) -/

theorem switchReady_iff {m : Move} {s : State} :
    switchReady m s = true ↔ m.cursor = m.length ∧ m.dual = [] ∧ s.mst.op = .idle := by
  simp [switchReady, storeBusy, and_assoc]

theorem switchStep_none {s : State} (h : s.mve = none ∨ (∃ m, s.mve = some m ∧ (m.cursor ≠ m.length ∨ m.dual ≠ [])) ∨
    s.mst.op ≠ .idle) : switchStep s = none := by
  unfold switchStep
  split
  · rfl
  · next m hm =>
    refine if_neg fun hr => ?_
    obtain ⟨hcursor, hdual, hidle⟩ := switchReady_iff.mp hr
    obtain h | ⟨m', hm', h⟩ | h := h
    · nomatch hm.symm.trans h
    · obtain rfl := Option.some.inj (hm.symm.trans hm')
      exact h.elim (fun h => h hcursor) fun h => h hdual
    · exact h hidle

theorem switchStep_some {s : State} {m : Move} (hm : s.mve = some m) (hr : switchReady m s = true) :
    switchStep s = some (switchMove m s) := by
  simp only [switchStep, hm, hr, if_true]

theorem takeSwitch_ready {s : State} {m : Move} (hm : s.mve = some m) (hr : switchReady m s = true) :
    takeSwitch s = switchMove m s := by
  rw [takeSwitch, switchStep_some hm hr]
  rfl

theorem switchMove_eq (m : Move) (s : State) : switchMove m s = complete m.tag .good .none 0 0 (switched m s) := rfl

theorem switchMove_answered (m : Move) (s : State) : Answered m.tag .good .none 0 0 (switchMove m s) := by
  have h := complete_answers m.tag .good .none 0 0 (switched m s)
  exact ⟨h.2.1, h.mem_tx⟩

theorem switchMove_mve (m : Move) (s : State) : (switchMove m s).mve = none := by
  rw [switchMove_eq, complete_mve]
  rfl

theorem switchMove_xmp (m : Move) (s : State) : (switchMove m s).xmp =
    { s.xmp with active := mapVec (switchExtent m) s.xmp.active, generation := s.xmp.generation + 1 } := by
  rw [switchMove_eq, complete_xmp]
  rfl

theorem switchMap_get (m : Move) (x : ExtMap) (i : Fin 64) : (mapVec (switchExtent m) x)[i] =
    if x[i].moving then { x[i] with
      port := BitVec.ofNat 8 m.dstPort, pstart := BitVec.ofNat 32 m.dstStart, moving := false } else x[i] := mapVec_get ..

/-! ### What an exit leaves of the map -/

/-- Between `u` and `w` no move and no map has changed, if there was no move. -/
def MapKept (u w : State) : Prop := u.mve = none → w.mve = none ∧ w.xmp = u.xmp

namespace MapKept

variable {u v w : State}

theorem refl (u : State) : MapKept u u := fun h => ⟨h, rfl⟩

theorem trans (h : MapKept u v) (k : MapKept v w) : MapKept u w := fun hu => by
  obtain ⟨hv, hx⟩ := h hu
  obtain ⟨hw, hy⟩ := k hv
  exact ⟨hw, hy.trans hx⟩

theorem of_inner (h : w.inner = u.inner) : MapKept u w := fun hu => by
  have hnone : w.mve.isSome = u.mve.isSome := congrArg (·.2.2.2) h
  rw [hu] at hnone
  exact ⟨Option.isNone_iff_eq_none.mp (Option.isSome_eq_false_iff.mp hnone), congrArg (·.2.2.1) h⟩

theorem foldl {α : Type} {f : State → α → State} (hf : ∀ s a, MapKept s (f s a)) (l : List α) (s : State) :
    MapKept s (l.foldl f s) := by
  induction l generalizing s with
  | nil => exact .refl s
  | cons a l ih => exact (hf s a).trans (ih _)

theorem abortAt (lba : Option Nat) (c : Cause) (s : State) : MapKept s (abortAt lba c s) := by
  cases lba with
  | none => exact .refl s
  | some d => exact fun h => by rw [Machine.abortAt, abortMove_idle h]; exact ⟨h, rfl⟩

theorem pieceFails (id : PieceId) (k : Nat) (c : Cause) (s : State) : MapKept s (pieceFails id k c s) := by
  cases hq : pieceOf id s with
  | none => rw [pieceFails_none hq]; exact .refl s
  | some q =>
    have hfails : (failsEnd id q k c s).inner = s.inner := by
      unfold failsEnd failedEnd
      split <;> simp
    rw [pieceFails_eq hq]
    exact (MapKept.of_inner hfails).trans (.abortAt _ c _)

theorem failQueue (p : PortId) (c : Cause) (s : State) : MapKept s (failQueue p c s) := by
  rw [failQueue_eq]
  refine .foldl (fun s id => ?_) _ s
  unfold failPlace
  split
  · exact .pieceFails id 0 c s
  · exact .refl s

theorem reportExit (old : PortState) (p : PortId) (c : Cause) (s : State) : MapKept s (reportExit old p c s) := by
  unfold Machine.reportExit portExitAborts
  split
  · cases hm : s.mve with
    | none => exact .refl s
    | some m => exact fun h => nomatch h.symm.trans hm
  · exact .refl s

theorem endPending (p : PortId) (x : OfflinePending) (s : State) : MapKept s (endPending p x s) := by
  unfold Machine.endPending
  split
  · refine fun h => ⟨?_, complete_xmp ..⟩
    rw [complete_mve]
    exact congrArg _ h
  · exact .refl s
  · exact .refl s

theorem enterOffline (p : PortId) (c : Cause) (s : State) : MapKept s (enterOffline p c s) := by
  have hstart : MapKept s (exitStarts p (fun x => { quietPort .offline x with mrst := true, offlinePending := .no }) s) :=
    fun h => ⟨h, rfl⟩
  rw [enterOffline_eq]
  exact hstart.trans ((MapKept.failQueue p c _).trans ((MapKept.reportExit _ p _ _).trans (.endPending p _ _)))

end MapKept

/-! ### An OK status for a piece -/

theorem statusOk_eq {p : PortId} {u : State} {id : PieceId} {op : MediaOp} {dest : Bool} {q : Piece}
    (hready : (portOf p u).state = .ready) (hout : (portOf p u).outstanding = some (.piece id op dest))
    (hq : pieceOf id u = some q) (hread : op = .rd → ∀ i, i < q.count → i ∈ (portOf p u).received) :
    statusOk p u = settlePending p (goodStatus p id op dest (notePending p (takeStatus p u))) := by
  have hall : ¬(op = .rd ∧ (!(List.range q.count).all fun i => decide (i ∈ (portOf p u).received)) = true) := by
    rintro ⟨hop, h⟩
    have hreceived := hread hop
    simp only [Bool.not_eq_true', List.all_eq_false, List.mem_range, decide_eq_true_iff] at h
    obtain ⟨i, hi, hnot⟩ := h
    exact hnot (hreceived i hi)
  simp only [statusOk, pieceAtMedia_eq_some.mpr ⟨hready, hout⟩, hq, Option.map_some, Option.getD_some]
  exact if_neg hall

/-- R66: the part once a status for a piece has been taken; nothing of the piece is. -/
def statusTaken (p : PortId) (u : State) : State := notePending p (takeStatus p u)

theorem statusTaken_eq (p : PortId) (u : State) : ∃ x, statusTaken p u = (takeStatus p u).setMgu x ∧
    ((portOf p u).offlinePending ≠ .no → x.flags.port = true) ∧ ((portOf p u).offlinePending = .no → x = u.mgu) := by
  have hp : (portOf p (takeStatus p u)).offlinePending = (portOf p u).offlinePending := by
    unfold takeStatus modPort setPort portOf
    simp only [State.setPorts_ports, Fin.getElem_fin, Vector.getElem_set_self]
  unfold statusTaken notePending
  rw [hp]
  split
  · next h => exact ⟨u.mgu, rfl, fun h' => absurd h h', fun _ => rfl⟩
  · next h => exact ⟨_, rfl, fun _ => rfl, fun h' => absurd h' h⟩

/-- R70: the destination phase of a piece has ended well. -/
theorem goodStatus_dest {p : PortId} {id : PieceId} {op : MediaOp} {q : Piece} {s : State} (hq : pieceOf id s = some q)
    (hop : op = .wr ∧ q.verify = false ∨ op = .vf) : goodStatus p id op true s = destEnds id s := by
  simp only [goodStatus, hq]
  obtain ⟨rfl, hv⟩ | rfl := hop
  · simp [hv]
  · simp

/-! ### The cursor (R103) -/

theorem destEnds_move {id : PieceId} {q : Piece} {s : State} (hq : pieceOf id s = some q) (ho : q.owner = .move) :
    destEnds id s = advanceCursor (leavesPart id (q.shadow.map (·.port)) s) := by
  rw [← pieceEnds_other hq (fun t h => nomatch ho.symm.trans h) .done]
  simp only [destEnds, hq, ho, if_true]

theorem destEnds_other {id : PieceId} {q : Piece} {s : State} (hq : pieceOf id s = some q) (ho : q.owner ≠ .move) :
    destEnds id s = pieceEnds id .done (q.shadow.map (·.port)) s := by
  simp only [destEnds, hq, ho, if_false]

/-- R103: the cursor stands behind the chunk that was in flight, and no chunk is. -/
def cursorAdvanced (m : Move) (s : State) : State :=
  (s.setMve (some { m with cursor := m.cursor + (m.chunk.map (·.count)).getD 0, chunk := none })).setPsc
    { s.psc with waiting := [] }

/-- R103: the pieces that waited for the chunk go to their destination queues. -/
def waitersJoin (l : List PieceId) (s : State) : State := l.foldl (fun s id => joinDestination id s) s

/-- R103, R107: what follows once they have. -/
def chunkFollows (s : State) : State :=
  match s.mve with
  | none => s
  | some m =>
    if m.cursor < m.length then fixChunk m s
    else if m.dual ≠ [] ∨ storeBusy s then s.setMve (some { m with pending := true })
    else s

theorem advanceCursor_eq {m : Move} {s : State} (h : s.mve = some m) :
    advanceCursor s = chunkFollows (waitersJoin s.psc.waiting (cursorAdvanced m s)) := by
  simp only [advanceCursor, h]
  rfl

/-- R106: at the length, with nothing to wait for, no chunk follows. -/
theorem chunkFollows_ready {m : Move} {s : State} (hm : s.mve = some m) (hr : switchReady m s = true) : chunkFollows s = s := by
  obtain ⟨hcursor, hdual, hidle⟩ := switchReady_iff.mp hr
  have hbusy : ¬(m.dual ≠ [] ∨ storeBusy s = true) := by simp [hdual, storeBusy, hidle]
  simp only [chunkFollows, hm]
  rw [if_neg (by omega), if_neg hbusy]

/-- R71, R105: the move once a piece has left the part. -/
def moveLess (id : PieceId) (m : Move) : Move :=
  { m with shadows := leaveSet id m.shadows, piece := if m.piece = some id then none else m.piece }

theorem leavesPart_move {id : PieceId} {q : Piece} {s : State} (hq : pieceOf id s = some q) (a : Option PortId) :
    (leavesPart id a s).mve = s.mve.map (moveLess id) ∧
      (leavesPart id a s).psc.waiting = leaveSet id s.psc.waiting := by
  obtain ⟨x, y, -, -, -, -, -, heq⟩ := detachPiece_eq hq
  cases a with
  | none => exact ⟨by rw [leavesPart, Option.elim_none, heq]; rfl, by rw [leavesPart, Option.elim_none, heq]; rfl⟩
  | some p =>
    have hclear : (clearFaults p (detachPiece id s)).mve = (detachPiece id s).mve ∧
      (clearFaults p (detachPiece id s)).psc = (detachPiece id s).psc := ⟨rfl, rfl⟩
    rw [leavesPart, Option.elim_some, hclear.1, hclear.2, heq]
    exact ⟨rfl, rfl⟩

theorem leavesPart_inner (id : PieceId) (a : Option PortId) (s : State) : (leavesPart id a s).inner = s.inner := by
  cases a <;> simp [leavesPart]

theorem leavesPart_pending (id : PieceId) (a : Option PortId) (p : PortId) (s : State) :
    (portOf p (leavesPart id a s)).offlinePending = (portOf p s).offlinePending := by
  have hdetach (x : PortId) : portOf x (detachPiece id s) = portOf x s := by unfold portOf; rw [detachPiece_ports]
  cases a with
  | none => exact congrArg Port.offlinePending (hdetach p)
  | some x =>
    rw [leavesPart, Option.elim_some, clearFaults_portOf, hdetach, hdetach]
    split
    · next h => rw [h.1]
    · rfl

/-! ### The last copy, with the port about to leave (R93, R97, R103; log 25) -/

section LastCopy

variable {p : PortId} {id : PieceId} {q : Piece} {m : Move} {ch : Chunk} {u : State}

/-- R103: the part once the piece of the move's last chunk has left it. -/
def lastLeft (p : PortId) (id : PieceId) (q : Piece) (u : State) : State :=
  leavesPart id (q.shadow.map (·.port)) (statusTaken p u)

/-- R103: the move whose last chunk is over. -/
def moveCopied (id : PieceId) (m : Move) : Move :=
  { moveLess id m with cursor := m.cursor + (m.chunk.map (·.count)).getD 0, chunk := none }

theorem statusTaken_pieceOf (j : PieceId) : pieceOf j (statusTaken p u) = pieceOf j u := by
  obtain ⟨x, h, -⟩ := statusTaken_eq p u
  rw [h]
  rfl

theorem statusTaken_frames : (statusTaken p u).mve = u.mve ∧ (statusTaken p u).psc = u.psc ∧ (statusTaken p u).spa = u.spa ∧
    (statusTaken p u).ulc = u.ulc ∧ (statusTaken p u).rqt = u.rqt ∧ (statusTaken p u).xmp = u.xmp ∧
    (statusTaken p u).mst = u.mst ∧ (statusTaken p u).svm = u.svm ∧ (statusTaken p u).out = u.out := by
  obtain ⟨x, h, -⟩ := statusTaken_eq p u
  rw [h]
  exact ⟨rfl, rfl, rfl, rfl, rfl, rfl, rfl, rfl, rfl⟩

theorem statusTaken_portOf : portOf p (statusTaken p u) =
    { portOf p u with outstanding := none, received := [], pieceTimer := none } := by
  obtain ⟨x, h, -⟩ := statusTaken_eq p u
  have hp : portOf p (statusTaken p u) = portOf p (takeStatus p u) := by rw [h]; rfl
  rw [hp]
  exact Vector.getElem_set_self ..

/-- R106: the switch is due as the piece of the last chunk ends. -/
theorem goodStatus_last {op : MediaOp} (hq : pieceOf id u = some q) (ho : q.owner = .move)
    (hop : op = .wr ∧ q.verify = false ∨ op = .vf) (hm : u.mve = some m) (hc : m.chunk = some ch)
    (hlen : m.cursor + ch.count = m.length) (hd : m.dual = []) (hi : u.mst.op = .idle) (hw : u.psc.waiting = []) :
    goodStatus p id op true (statusTaken p u) = cursorAdvanced (moveLess id m) (lastLeft p id q u) ∧
      switchReady (moveCopied id m) (cursorAdvanced (moveLess id m) (lastLeft p id q u)) = true := by
  obtain ⟨hmve, hpsc, -, -, -, -, hmst, -⟩ := statusTaken_frames (p := p) (u := u)
  have hq' : pieceOf id (statusTaken p u) = some q := (statusTaken_pieceOf id).trans hq
  obtain ⟨hmove, hwaiting⟩ := leavesPart_move hq' (q.shadow.map (·.port))
  have hmove' : (lastLeft p id q u).mve = some (moveLess id m) := by
    rw [lastLeft, hmove, hmve, hm]
    rfl
  have hnone : (lastLeft p id q u).psc.waiting = [] := by
    rw [lastLeft, hwaiting, hpsc, hw]
    rfl
  have hidle : (lastLeft p id q u).mst.op = .idle := by
    have hcontrol : (lastLeft p id q u).mst = (statusTaken p u).mst :=
      congrArg (·.2.2.1) (leavesPart_control id (q.shadow.map (·.port)) (statusTaken p u))
    rw [hcontrol, hmst]
    exact hi
  have hready : switchReady (moveCopied id m) (cursorAdvanced (moveLess id m) (lastLeft p id q u)) = true := by
    refine switchReady_iff.mpr ⟨?_, hd, hidle⟩
    rw [moveCopied, hc]
    exact hlen
  refine ⟨?_, hready⟩
  rw [goodStatus_dest hq' hop, destEnds_move hq' ho]
  have hadvance := advanceCursor_eq hmove'
  rw [hnone] at hadvance
  exact hadvance.trans (chunkFollows_ready (m := moveCopied id m) rfl hready)

theorem lastLeft_waiting (hq : pieceOf id u = some q) (hw : u.psc.waiting = []) : (lastLeft p id q u).psc.waiting = [] := by
  obtain ⟨-, hpsc, -⟩ := statusTaken_frames (p := p) (u := u)
  obtain ⟨-, hwaiting⟩ := leavesPart_move ((statusTaken_pieceOf (p := p) id).trans hq) (q.shadow.map (·.port))
  rw [lastLeft, hwaiting, hpsc, hw]
  rfl

/-- R103: only the piece of the chunk has left. -/
theorem lastCopied_core (hq : pieceOf id u = some q) (ho : q.owner = .move) (hw : u.psc.waiting = []) (m' : Move) :
    Core (fun _ => True) u (cursorAdvanced m' (lastLeft p id q u)) := by
  obtain ⟨-, hpsc, hspa, hulc, hrqt, -⟩ := statusTaken_frames (p := p) (u := u)
  have hq' : pieceOf id (statusTaken p u) = some q := (statusTaken_pieceOf id).trans hq
  have htaken : Core (fun _ => True) u (statusTaken p u) :=
    .of_eq hpsc (congrArg (·.free) hspa) hulc (congrArg (·.entries) hrqt)
  have hleft : Core (fun _ => True) (statusTaken p u) (lastLeft p id q u) := by
    have hends := (Ends.pieceEnds id .done (q.shadow.map (·.port)) (statusTaken p u)).core
    rw [pieceEnds_other hq' fun t h => nomatch ho.symm.trans h] at hends
    exact hends.mono fun _ _ => trivial
  have hadvance : Core (fun _ => True) (lastLeft p id q u) (cursorAdvanced m' (lastLeft p id q u)) := by
    refine .of_eq ?_ rfl rfl rfl
    have hnone := lastLeft_waiting (p := p) hq hw
    show { (lastLeft p id q u).psc with waiting := [] } = (lastLeft p id q u).psc
    rw [← hnone]
  exact (htaken.trans hleft).trans hadvance

/-- R72: the piece of the last chunk has left the part. -/
theorem lastCopied_gone (hq : pieceOf id u = some q) (m' : Move) :
    pieceOf id (cursorAdvanced m' (lastLeft p id q u)) = none := by
  have hgone := (detachPiece_gone ((statusTaken_pieceOf (p := p) id).trans hq)).1
  cases h : q.shadow with
  | none =>
    have hleft : lastLeft p id q u = detachPiece id (statusTaken p u) := by rw [lastLeft, h]; rfl
    rw [hleft]
    exact hgone
  | some sh =>
    have hleft : lastLeft p id q u = clearFaults sh.port (detachPiece id (statusTaken p u)) := by rw [lastLeft, h]; rfl
    rw [hleft]
    exact hgone

theorem lastCopied_xmp (m' : Move) : (cursorAdvanced m' (lastLeft p id q u)).xmp = u.xmp := by
  obtain ⟨-, -, -, -, -, hxmp, -⟩ := statusTaken_frames (p := p) (u := u)
  have hleft : (lastLeft p id q u).xmp = (statusTaken p u).xmp := congrArg (·.2.2.1) (leavesPart_inner ..)
  exact hleft.trans hxmp

/-- R82, R93: the port is still to leave, and PORT is set. -/
theorem lastCopied_port (h : (portOf p u).offlinePending ≠ .no) (m' : Move) :
    (portOf p (cursorAdvanced m' (lastLeft p id q u))).offlinePending ≠ .no ∧
      (cursorAdvanced m' (lastLeft p id q u)).mgu.flags.port = true := by
  have hport : (portOf p (lastLeft p id q u)).offlinePending = (portOf p u).offlinePending := by
    rw [lastLeft, leavesPart_pending, statusTaken_portOf]
  have hmgu : (lastLeft p id q u).mgu = (statusTaken p u).mgu := congrArg (·.1) (leavesPart_inner ..)
  obtain ⟨x, hx, hflag, -⟩ := statusTaken_eq p u
  refine ⟨fun x => h (hport.symm.trans x), ?_⟩
  show (lastLeft p id q u).mgu.flags.port = true
  rw [hmgu, hx]
  exact hflag h

end LastCopy

/-- R41, R93: an exit to OFFLINE changes nothing that a completion reports, with PORT set. -/
theorem enterOffline_report {p : PortId} {c : Cause} {s : State} (h : s.mgu.flags.port = true) :
    SameReport s (enterOffline p c s) := by
  obtain ⟨⟨-, -, hflags, -, hsvm, -⟩, -⟩ := enterOffline_outOfService p c s
  have hsame : (enterOffline p c s).mgu.flags = s.mgu.flags := by
    rw [hflags, ← h]
  refine ⟨?_, by rw [hsvm], congrArg (·.2.2.2.2.2.2.2.1) (enterOffline_control p c s)⟩
  rw [attention, hsame, hsvm]
  rfl

/-- R93: with offline pending the switch is taken and then the port leaves. -/
theorem settlePending_last {p : PortId} {m : Move} {s : State} (h : (portOf p s).offlinePending ≠ .no) (hm : s.mve = some m)
    (hr : switchReady m s = true) : settlePending p s = enterOffline p .portOffline (switchMove m s) := by
  rw [settlePending, if_neg h, takeSwitch_ready hm hr]

/-- Settles O54: a move switches when its copy is complete, also as its port leaves. -/
theorem moveSwitches : Obligations.MoveSwitches := by
  refine fun s hr => ⟨fun h => ?_, fun m hm hcursor hdual hidle => ?_,
    fun u p id op q m ch hs => ?_⟩
  · rw [exec_moveSwitch, ownStep_none hr (switchStep_none h)]
  · have hswitch := switchStep_some hm (switchReady_iff.mpr ⟨hcursor, hdual, hidle⟩)
    have hxmp := switchMove_xmp m s
    refine ⟨switchMove m s, congrArg Host.Outcome.next (ownStep_some hr hswitch), switchMove_answered m s,
      switchMove_mve m s, by rw [hxmp], fun i => by rw [hxmp]; exact switchMap_get .., by rw [hxmp], by rw [hxmp], ?_, ?_, ?_,
      SameMedia.complete (u := s) (v := switched m s) ⟨rfl, rfl, rfl, rfl, rfl, rfl, rfl⟩ ..⟩
    · exact complete_mgu ..
    · exact congrArg (·.2.2.1) (complete_control m.tag .good .none 0 0 (switched m s))
    · exact congrArg (·.2.2.2.1) (complete_control m.tag .good .none 0 0 (switched m s))
  · intro x hready hout hpend hq hk ho hop hm hc hlen hd hi hw
    obtain ⟨hgood, hswitch⟩ := goodStatus_last (p := p) hq ho hop hm hc hlen hd hi hw
    have hcore := lastCopied_core (p := p) hq ho hw (moveLess id m)
    have hgone := lastCopied_gone (p := p) hq (moveLess id m)
    have hxmp := lastCopied_xmp (p := p) (id := id) (q := q) (u := u) (moveLess id m)
    obtain ⟨hport, hflag⟩ := lastCopied_port (id := id) (q := q) hpend (moveLess id m)
    have hread : op = .rd → ∀ i, i < q.count → i ∈ (portOf p u).received := by
      rintro rfl
      obtain ⟨h, -⟩ | h := hop <;> nomatch h
    have hexec := exec_mediaStsOk hs p
    have htaken : goodStatus p id op true (notePending p (takeStatus p u)) = _ := hgood
    have hmve : (cursorAdvanced (moveLess id m) (lastLeft p id q u)).mve = some (moveCopied id m) := rfl
    rw [statusOk_eq hready hout hq hread, htaken] at hexec
    generalize cursorAdvanced (moveLess id m) (lastLeft p id q u) = c at *
    rw [settlePending_last hport hmve hswitch] at hexec
    have hends : Ends c (enterOffline p .portOffline (switchMove (moveCopied id m) c)) :=
      (Ends.switchMove (moveCopied id m) c).trans (.enterOffline ..)
    have hreport : SameReport (switchMove (moveCopied id m) c) (enterOffline p .portOffline (switchMove (moveCopied id m) c)) := by
      refine enterOffline_report ?_
      rw [switchMove_eq, complete_mgu]
      exact hflag
    obtain ⟨hnone, hmap⟩ := MapKept.enterOffline p .portOffline _ (switchMove_mve (moveCopied id m) c)
    have hmap' := hmap.trans ((switchMove_xmp (moveCopied id m) c).trans (by rw [hxmp]))
    obtain ⟨⟨hoffline, -⟩, -⟩ := enterOffline_outOfService p .portOffline (switchMove (moveCopied id m) c)
    refine ⟨_, hexec, ?_, (switchMove_answered (moveCopied id m) c).later (Ends.enterOffline ..).core hreport, hnone,
      congrArg (·.generation) hmap', fun i => ?_, congrArg (·.state) hoffline⟩
    · have hall := hcore.trans (hends.core.mono fun _ _ => trivial)
      exact (hall.gone id q hq (hends.core.shrinks.1 id hgone)).1
    · rw [hmap']
      exact switchMap_get ..

end Sys2Proof.Machine
end

section
/-! SUPPORT. The destination phase (R69, R70, R100 to R103). -/

namespace Sys2Proof.Machine

/-! ### A piece that goes to its destination (R70) -/

/-- R70: a piece in the destination phase. -/
def inShadow (r : Piece) : Piece :=
  { r with state := .shadow, shadow := r.shadow.map fun sh => { sh with state := .queued } }

/-- R70: a piece with a shadow part whose destination port is in service. -/
def Joins (s : State) (j : PieceId) : Prop := ∃ r sj, pieceOf j s = some r ∧ r.shadow = some sj ∧ inService sj.port s

/-- R70: the piece goes to port `p`. -/
def goesTo (p : PortId) (s : State) (j : PieceId) : Bool :=
  (pieceOf j s).any fun r => r.shadow.any fun sj => sj.port = p

theorem joinQueue_get (p p' : PortId) (id : PieceId) (s : State) :
    queueOf p' (joinQueue p id s) = queueOf p' s ++ if p' = p then [id] else [] := by
  by_cases h : p' = p
  · rw [h, joinQueue_queueOf, if_pos rfl]
  · rw [if_neg h, List.append_nil]
    exact Vector.getElem_set_ne p.isLt p'.isLt fun e => h (Fin.ext e).symm

theorem joinDestination_joins {id : PieceId} {r : Piece} {sj : Shadow} {s : State} (hr : pieceOf id s = some r)
    (hsh : r.shadow = some sj) (hin : inService sj.port s) :
    joinDestination id s = joinQueue sj.port id (setPiece id (some (inShadow r)) s) := by
  have hpiece : inShadow r = { r with state := .shadow, shadow := some { sj with state := .queued } } := by
    rw [inShadow, hsh]
    rfl
  have hport : outOfService (portOf sj.port (modPiece id (fun p =>
      { p with state := .shadow, shadow := some { sj with state := .queued } }) s)).state = none :=
    outOfService_inService hin
  simp only [joinDestination, hr, Option.bind_some, hsh, hport]
  rw [hpiece, modPiece, hr]
  rfl

theorem inShadow_idem (r : Piece) : inShadow (inShadow r) = inShadow r := by
  unfold inShadow
  simp [Function.comp_def]

theorem goesTo_inShadow (p : PortId) (r : Piece) :
    ((inShadow r).shadow.any fun sj => decide (sj.port = p)) = r.shadow.any fun sj => decide (sj.port = p) := by
  rw [inShadow, Option.any_map]

/-- R70, R103: what the pieces that waited change as they go to their destinations. -/
theorem waitersJoin_spec (l : List PieceId) (s : State) (h : ∀ j ∈ l, Joins s j) :
    (∃ x, waitersJoin l s = s.setPsc x ∧ x.waiting = s.psc.waiting) ∧
      (∀ j, pieceOf j (waitersJoin l s) = if j ∈ l then (pieceOf j s).map inShadow else pieceOf j s) ∧
      ∀ p, queueOf p (waitersJoin l s) = queueOf p s ++ l.filter (goesTo p s) := by
  induction l generalizing s with
  | nil => exact ⟨⟨s.psc, rfl, rfl⟩, fun _ => rfl, fun _ => (List.append_nil _).symm⟩
  | cons id l ih =>
    obtain ⟨r, sj, hr, hsh, hin⟩ := h id (List.mem_cons_self ..)
    have hstep : waitersJoin (id :: l) s = waitersJoin l (joinQueue sj.port id (setPiece id (some (inShadow r)) s)) := by
      rw [← joinDestination_joins hr hsh hin]
      rfl
    have hpiece (j : PieceId) : pieceOf j (joinQueue sj.port id (setPiece id (some (inShadow r)) s)) =
        if j = id then some (inShadow r) else pieceOf j s := by
      by_cases hj : j = id
      · subst hj
        rw [if_pos rfl]
        exact pieceOf_setPiece_self ..
      · rw [if_neg hj]
        exact pieceOf_setPiece_ne hj _ s
    have hgoes (p : PortId) (j : PieceId) :
        goesTo p (joinQueue sj.port id (setPiece id (some (inShadow r)) s)) j = goesTo p s j := by
      unfold goesTo
      rw [hpiece]
      split
      · next hj => rw [hj, hr, Option.any_some, Option.any_some, goesTo_inShadow]
      · rfl
    have hjoins : ∀ j ∈ l, Joins (joinQueue sj.port id (setPiece id (some (inShadow r)) s)) j := by
      intro j hj
      obtain ⟨r', sj', hr', hsh', hin'⟩ := h j (List.mem_cons_of_mem id hj)
      by_cases hid : j = id
      · subst hid
        exact ⟨inShadow r, { sj with state := .queued }, by rw [hpiece, if_pos rfl], by rw [inShadow, hsh]; rfl, hin⟩
      · exact ⟨r', sj', by rw [hpiece, if_neg hid, hr'], hsh', hin'⟩
    obtain ⟨⟨x, hx, hw⟩, hpieces, hqueues⟩ := ih _ hjoins
    rw [hstep]
    refine ⟨⟨x, hx, hw⟩, fun j => ?_, fun p => ?_⟩
    · rw [hpieces, hpiece]
      by_cases hj : j = id
      · subst hj
        simp [hr, inShadow_idem]
      · simp [hj]
    · have hself : goesTo p s id = decide (sj.port = p) := by
        unfold goesTo
        rw [hr, Option.any_some, hsh, Option.any_some]
      have hqueue : queueOf p (setPiece id (some (inShadow r)) s) = queueOf p s := rfl
      rw [hqueues, joinQueue_get, hqueue, List.filter_cons, hself, List.append_assoc]
      congr 1
      rw [List.filter_congr fun j _ => hgoes p j]
      by_cases hp : sj.port = p
      · simp [hp]
      · simp [hp, Ne.symm hp]

/-! ### The end of a source phase (R69, R70) -/

theorem chunkCovers_iff {s : State} {sh : Shadow} {n : Nat} : chunkCovers s sh n = true ↔
    ∃ m ch, s.mve = some m ∧ m.chunk = some ch ∧ m.dstStart + m.cursor < sh.start + n ∧
      sh.start < m.dstStart + m.cursor + ch.count := by
  cases hm : s.mve with
  | none => simp [chunkCovers, hm]
  | some m =>
    cases hc : m.chunk with
    | none => simp [chunkCovers, hm, hc]
    | some ch => simp [chunkCovers, hm, hc, rangesMeet]

/-- R70: a WR piece waits for the chunk in flight. -/
def waitsInShadow (id : PieceId) (s : State) : State :=
  modPiece id (fun p => { p with state := .shadowWait, shadow := p.shadow.map fun sh => { sh with state := .waiting } })
    (s.setPsc { s.psc with waiting := s.psc.waiting ++ [id] })

section Source

variable {p : PortId} {id : PieceId} {op : MediaOp} {dest : Bool} {q : Piece} {sh : Shadow} {s u : State}

theorem sourceEnds_eq (hq : pieceOf id s = some q) (hsh : q.shadow = some sh) : sourceEnds id s =
    if sh.afterChunk && chunkCovers s sh q.count then waitsInShadow id (leaveQueues id s)
    else joinDestination id (leaveQueues id s) := by
  obtain ⟨x, -, -, -, hx⟩ := leaveQueues_eq id s
  have hcovers : chunkCovers (leaveQueues id s) sh q.count = chunkCovers s sh q.count := by rw [hx]; rfl
  have hpiece : pieceOf id (leaveQueues id s) = some q := by rw [hx]; exact hq
  simp only [sourceEnds, hq, hsh, hcovers]
  split
  · have hself : pieceOf id ((leaveQueues id s).setPsc { (leaveQueues id s).psc with
        waiting := (leaveQueues id s).psc.waiting ++ [id] }) = some q := hpiece
    rw [waitsInShadow, modPiece, modPiece, hself, Option.map_some, Option.map_some, hsh]
    rfl
  · rfl

/-- R69: a CP piece goes to its destination, and a WR piece that does not wait. -/
theorem goodStatus_joins (hq : pieceOf id s = some q) (hsh : q.shadow = some sh) (hover : SourceOver op dest q)
    (hwait : ¬WaitsForChunk q sh s) : goodStatus p id op dest s = joinDestination id (leaveQueues id s) := by
  obtain ⟨rfl, ⟨hk, rfl⟩ | ⟨hk, hop⟩⟩ := hover
  · have hsome : q.shadow.isSome = true := by rw [hsh]; rfl
    simp only [goodStatus, hq, hk, if_true, copyReadEnds, hsome]
  · have hnot : ¬(sh.afterChunk && chunkCovers s sh q.count) = true := by
      rw [Bool.and_eq_true, chunkCovers_iff]
      exact fun h => hwait ⟨hk, h⟩
    have hends := sourceEnds_eq hq hsh
    rw [if_neg hnot] at hends
    rw [← hends]
    obtain ⟨rfl, hv⟩ | rfl := hop
    · simp [goodStatus, hq, hv]
    · simp [goodStatus, hq, hk]

/-- R70: a WR piece that waits. -/
theorem goodStatus_waits (hq : pieceOf id s = some q) (hsh : q.shadow = some sh) (hover : SourceOver op dest q)
    (hwait : WaitsForChunk q sh s) : goodStatus p id op dest s = waitsInShadow id (leaveQueues id s) := by
  obtain ⟨hk, hafter⟩ := hwait
  have hyes : (sh.afterChunk && chunkCovers s sh q.count) = true := by
    rw [Bool.and_eq_true, chunkCovers_iff]
    exact hafter
  have hends := sourceEnds_eq hq hsh
  rw [if_pos hyes] at hends
  rw [← hends]
  obtain ⟨rfl, ⟨hcp, -⟩ | ⟨-, hop⟩⟩ := hover
  · nomatch hk.symm.trans hcp
  · obtain ⟨rfl, hv⟩ | rfl := hop
    · simp [goodStatus, hq, hv]
    · simp [goodStatus, hq, hk]

/-- R66: with no offline pending the status is all of the event. -/
theorem exec_mediaStsOk_alone {w : State} (hs : StandsAt s u) (hready : (portOf p u).state = .ready)
    (hout : (portOf p u).outstanding = some (.piece id op dest)) (hq : pieceOf id u = some q)
    (hread : op = .rd → ∀ i, i < q.count → i ∈ (portOf p u).received)
    (hw : goodStatus p id op dest (statusTaken p u) = w) (hp : (portOf p w).offlinePending = .no) :
    exec (.mediaStsOk p true) s = .next (finish w) := by
  have htaken : goodStatus p id op dest (notePending p (takeStatus p u)) = w := hw
  rw [exec_mediaStsOk hs, statusOk_eq hready hout hq hread, htaken, settlePending, if_pos hp]

theorem statusTaken_pending (h : (portOf p u).offlinePending = .no) : (portOf p (statusTaken p u)).offlinePending = .no := by
  rw [statusTaken_portOf]
  exact h

theorem statusTaken_inService {p' : PortId} : inService p' (statusTaken p u) ↔ inService p' u := by
  have hstate : (portOf p' (statusTaken p u)).state = (portOf p' u).state := by
    obtain ⟨x, h, -⟩ := statusTaken_eq p u
    have hp : portOf p' (statusTaken p u) = portOf p' (takeStatus p u) := by rw [h]; rfl
    rw [hp]
    unfold takeStatus modPort setPort portOf
    by_cases hpp : p' = p
    · subst hpp
      simp
    · have hne : p.val ≠ p'.val := fun x => hpp (Fin.ext x).symm
      simp [hne]
  unfold inService
  rw [hstate]

/-- R69: the part once the status of a source phase has been taken, and its piece has left the source queue. -/
def sourceLeft (p : PortId) (id : PieceId) (u : State) : State := leaveQueues id (statusTaken p u)

theorem sourceLeft_pieceOf (j : PieceId) : pieceOf j (sourceLeft p id u) = pieceOf j u := by
  obtain ⟨y, -, -, -, h⟩ := leaveQueues_eq id (statusTaken p u)
  rw [sourceLeft, h]
  exact statusTaken_pieceOf j

theorem sourceLeft_queueOf (p' : PortId) : queueOf p' (sourceLeft p id u) = (queueOf p' u).filter (· ≠ id) := by
  obtain ⟨y, -, -, -, h⟩ := leaveQueues_eq id (statusTaken p u)
  obtain ⟨-, hpsc, -⟩ := statusTaken_frames (p := p) (u := u)
  have hsame : queueOf p' (statusTaken p u) = queueOf p' u := by unfold queueOf; rw [hpsc]
  rw [sourceLeft, h, ← hsame]
  exact mapVec_get ..

theorem sourceLeft_frames : (sourceLeft p id u).rqt = u.rqt ∧ (sourceLeft p id u).ulc = u.ulc ∧
    (sourceLeft p id u).mve = u.mve ∧ (sourceLeft p id u).psc.waiting = u.psc.waiting := by
  obtain ⟨y, -, -, -, h⟩ := leaveQueues_eq id (statusTaken p u)
  obtain ⟨hmve, hpsc, -, hulc, hrqt, -⟩ := statusTaken_frames (p := p) (u := u)
  rw [sourceLeft, h]
  exact ⟨hrqt, hulc, hmve, congrArg (·.waiting) hpsc⟩

theorem sourceLeft_portOf (p' : PortId) : portOf p' (sourceLeft p id u) = portOf p' (statusTaken p u) :=
  congrArg (·[p']) (leaveQueues_ports id (statusTaken p u))

theorem waitsForChunk_congr {v : State} (h : v.mve = u.mve) : WaitsForChunk q sh v ↔ WaitsForChunk q sh u := by
  unfold WaitsForChunk
  rw [h]

/-- R69, R70: the piece joins its destination queue. -/
theorem sourceOver_joins (hpend : (portOf p u).offlinePending = .no) (hq : pieceOf id u = some q) (hsh : q.shadow = some sh)
    (hover : SourceOver op dest q) (hwait : ¬WaitsForChunk q sh u) (hin : inService sh.port u) :
    ∃ w, goodStatus p id op dest (statusTaken p u) = w ∧ (portOf p w).offlinePending = .no ∧
      pieceOf id w = some { q with state := .shadow, shadow := some { sh with state := .queued } } ∧
      (∀ p', queueOf p' w = (queueOf p' u).filter (· ≠ id) ++ if p' = sh.port then [id] else []) ∧
      w.rqt = u.rqt ∧ w.ulc = u.ulc ∧ w.mve = u.mve := by
  obtain ⟨hmve, -⟩ := statusTaken_frames (p := p) (u := u)
  obtain ⟨hrqt, hulc, hmve', -⟩ := sourceLeft_frames (p := p) (id := id) (u := u)
  have hin' : inService sh.port (sourceLeft p id u) := by
    have h := (statusTaken_inService (p := p)).mpr hin
    unfold inService at h ⊢
    rw [sourceLeft_portOf]
    exact h
  have hgood : goodStatus p id op dest (statusTaken p u) = joinQueue sh.port id (setPiece id (some (inShadow q)) (sourceLeft p id u)) :=
    (goodStatus_joins ((statusTaken_pieceOf id).trans hq) hsh hover (mt (waitsForChunk_congr hmve).mp hwait)).trans
      (joinDestination_joins (s := sourceLeft p id u) ((sourceLeft_pieceOf id).trans hq) hsh hin')
  have hport : (portOf p (sourceLeft p id u)).offlinePending = .no := by
    rw [sourceLeft_portOf]
    exact statusTaken_pending hpend
  have hqueue := fun p' => sourceLeft_queueOf (p := p) (id := id) (u := u) p'
  generalize sourceLeft p id u = v at *
  refine ⟨_, hgood, hport, ?_, fun p' => ?_, hrqt, hulc, hmve'⟩
  · have hself : pieceOf id (joinQueue sh.port id (setPiece id (some (inShadow q)) v)) = some (inShadow q) :=
      pieceOf_setPiece_self ..
    rw [hself, inShadow, hsh]
    rfl
  · rw [joinQueue_get, ← hqueue]
    rfl

/-- R70: the piece waits for the chunk in flight. -/
theorem sourceOver_waits (hpend : (portOf p u).offlinePending = .no) (hq : pieceOf id u = some q) (hsh : q.shadow = some sh)
    (hover : SourceOver op dest q) (hwait : WaitsForChunk q sh u) :
    ∃ w, goodStatus p id op dest (statusTaken p u) = w ∧ (portOf p w).offlinePending = .no ∧
      pieceOf id w = some { q with state := .shadowWait, shadow := some { sh with state := .waiting } } ∧
      (∀ p', queueOf p' w = (queueOf p' u).filter (· ≠ id)) ∧ w.psc.waiting = u.psc.waiting ++ [id] ∧
      w.rqt = u.rqt ∧ w.ulc = u.ulc ∧ w.mve = u.mve := by
  obtain ⟨hmve, -⟩ := statusTaken_frames (p := p) (u := u)
  obtain ⟨hrqt, hulc, hmve', hwaiting⟩ := sourceLeft_frames (p := p) (id := id) (u := u)
  have hgood : goodStatus p id op dest (statusTaken p u) = waitsInShadow id (sourceLeft p id u) :=
    goodStatus_waits ((statusTaken_pieceOf id).trans hq) hsh hover ((waitsForChunk_congr hmve).mpr hwait)
  have hport : (portOf p (sourceLeft p id u)).offlinePending = .no := by
    rw [sourceLeft_portOf]
    exact statusTaken_pending hpend
  have hqueue := fun p' => sourceLeft_queueOf (p := p) (id := id) (u := u) p'
  have hpiece : pieceOf id (sourceLeft p id u) = some q := (sourceLeft_pieceOf id).trans hq
  generalize sourceLeft p id u = v at *
  refine ⟨_, hgood, hport, ?_, hqueue, congrArg (· ++ [id]) hwaiting, hrqt, hulc, hmve'⟩
  have hself : pieceOf id (v.setPsc { v.psc with waiting := v.psc.waiting ++ [id] }) = some q := hpiece
  rw [waitsInShadow, modPiece_self hself, hsh]
  rfl

/-- R70: a destination write has ended well. -/
theorem destWrite_done {t : Tag} {e : Entry} (hpend : (portOf p u).offlinePending = .no)
    (hready : (portOf p u).state = .ready) (hq : pieceOf id u = some q) (hsh : q.shadow = some sh)
    (hop : op = .wr ∧ q.verify = false ∨ op = .vf) (ho : q.owner = .tag t) (hp : sh.port = p) (he : entryOf t u = some e)
    (hr : Resolved e) :
    ∃ w, goodStatus p id op true (statusTaken p u) = w ∧ (portOf p w).offlinePending = .no ∧
      PieceGone id q w ∧ PieceDone t e q w ∧ (portOf p w).faults = 0 := by
  obtain ⟨-, -, -, -, hrqt, -⟩ := statusTaken_frames (p := p) (u := u)
  have hq' : pieceOf id (statusTaken p u) = some q := (statusTaken_pieceOf id).trans hq
  have he' : entryOf t (statusTaken p u) = some e := by
    unfold entryOf
    rw [hrqt]
    exact he
  have hgood : goodStatus p id op true (statusTaken p u) = pieceEnds id .done (some p) (statusTaken p u) := by
    rw [goodStatus_dest hq' hop, destEnds_other hq' (by rw [ho]; exact nofun), hsh, Option.map_some, hp]
  have hstate : (portOf p (statusTaken p u)).state = .ready := by
    rw [statusTaken_portOf]
    exact hready
  have hport : portOf p (pieceEnds id .done (some p) (statusTaken p u)) = { portOf p (statusTaken p u) with faults := 0 } := by
    rw [pieceEnds_done_ports hq', if_pos ⟨rfl, hstate⟩]
  refine ⟨_, hgood, ?_, pieceEnds_gone hq' .done (some p), pieceEnds_takes hq' ho he' hr (some p), ?_⟩
  · rw [hport]
    exact statusTaken_pending hpend
  · rw [hport]

end Source

/-! ### The good end of a copy (R103) -/

/-- R100, R107: the move at a cursor, with no chunk in flight, as the next one is fixed or the switch is put off. -/
def nextMove (m : Move) (s : State) : Move :=
  if m.cursor < m.length then
    let m' := { m with chunk := some ⟨min Config.pieceBlocks (m.length - m.cursor), .held⟩ }
    { m' with blocking := allTags.filter fun t => holdsChunk m' t s }
  else if m.dual ≠ [] ∨ storeBusy s then { m with pending := true }
  else m

theorem chunkFollows_eq {m : Move} {s : State} (h : s.mve = some m) : chunkFollows s = s.setMve (some (nextMove m s)) := by
  simp only [chunkFollows, h, nextMove]
  split
  · rfl
  · split
    · rfl
    · rw [← h]
      rfl

/-- R100: the chunk that follows, with what keeps it back. -/
theorem nextMove_chunk {m : Move} (s : State) (hc : m.chunk = none) :
    ((nextMove m s).chunk = if m.cursor < m.length then some ⟨min 8 (m.length - m.cursor), .held⟩ else none) ∧
    (m.cursor < m.length → ∀ t, t ∈ (nextMove m s).blocking ↔ BlocksChunk (nextMove m s) t s) := by
  unfold nextMove
  split
  · exact ⟨rfl, fun _ t => mem_blocking⟩
  · next h =>
    refine ⟨?_, fun h' => absurd h' h⟩
    split
    · exact hc
    · exact hc

theorem nextMove_fields (m : Move) (s : State) : (nextMove m s).cursor = m.cursor ∧ (nextMove m s).dual = m.dual ∧
    (nextMove m s).piece = m.piece ∧ (nextMove m s).shadows = m.shadows ∧
    (nextMove m s).pending = (m.pending || decide (m.length ≤ m.cursor ∧ (m.dual ≠ [] ∨ s.mst.op ≠ .idle))) := by
  have hbusy : storeBusy s = true ↔ s.mst.op ≠ .idle := decide_eq_true_iff
  unfold nextMove
  split
  · next h => exact ⟨rfl, rfl, rfl, rfl, by simp [Nat.not_le.mpr h]⟩
  · next h =>
    split
    · next hd =>
      rw [hbusy] at hd
      exact ⟨rfl, rfl, rfl, rfl, by simp [Nat.not_lt.mp h, hd]⟩
    · next hd =>
      rw [hbusy] at hd
      exact ⟨rfl, rfl, rfl, rfl, by simp [hd]⟩

theorem leaveSet_of_notMem {α : Type} [DecidableEq α] {x : α} {l : List α} (h : x ∉ l) : leaveSet x l = l :=
  List.filter_eq_self.mpr fun _ hy => decide_eq_true fun e => h (e ▸ hy)

section Copy

variable {p : PortId} {id : PieceId} {q : Piece} {m : Move} {u : State}

/-- R103: what the end of a copy leaves, before the cursor advances. -/
structure CopyLeft (id : PieceId) (m : Move) (u v : State) : Prop where
  move : v.mve = some (moveLess id m)
  waiting : v.psc.waiting = u.psc.waiting
  pieces : ∀ j, j ≠ id → pieceOf j v = pieceOf j u
  queues : ∀ p, queueOf p v = (queueOf p u).filter (· ≠ id)
  store : v.mst = u.mst
  service : ∀ p, inService p v ↔ inService p u

theorem lastLeft_inService (p' : PortId) : inService p' (lastLeft p id q u) ↔ inService p' u := by
  have hstate : (portOf p' (lastLeft p id q u)).state = (portOf p' (statusTaken p u)).state := by
    have hdetach (y : PortId) : portOf y (detachPiece id (statusTaken p u)) = portOf y (statusTaken p u) := by
      unfold portOf
      rw [detachPiece_ports]
    unfold lastLeft leavesPart
    cases q.shadow with
    | none => exact congrArg Port.state (hdetach p')
    | some sh =>
      rw [Option.map_some, Option.elim_some, clearFaults_portOf, hdetach, hdetach]
      split
      · next h => rw [h.1]
      · rfl
  rw [← statusTaken_inService (p := p) (u := u)]
  unfold inService
  rw [hstate]

theorem lastLeft_left (hq : pieceOf id u = some q) (hm : u.mve = some m) (hid : id ∉ u.psc.waiting) :
    CopyLeft id m u (lastLeft p id q u) := by
  obtain ⟨hmve, hpsc, -, -, -, -, hmst, -⟩ := statusTaken_frames (p := p) (u := u)
  have hq' : pieceOf id (statusTaken p u) = some q := (statusTaken_pieceOf id).trans hq
  obtain ⟨hmove, hwaiting⟩ := leavesPart_move hq' (q.shadow.map (·.port))
  have hpsc' : (lastLeft p id q u).psc = (detachPiece id (statusTaken p u)).psc := by
    unfold lastLeft leavesPart
    cases q.shadow <;> rfl
  obtain ⟨x, y, -, -, -, -, -, hdetach⟩ := detachPiece_eq hq'
  refine ⟨?_, ?_, fun j hj => ?_, fun p' => ?_, ?_, lastLeft_inService⟩
  · rw [lastLeft, hmove, hmve, hm]
    rfl
  · rw [lastLeft, hwaiting, hpsc, leaveSet_of_notMem hid]
  · unfold pieceOf
    rw [hpsc']
    exact (detachPiece_other hj (statusTaken p u)).trans (statusTaken_pieceOf j)
  · have hsame : queueOf p' (statusTaken p u) = queueOf p' u := by unfold queueOf; rw [hpsc]
    have hqueue : queueOf p' (lastLeft p id q u) = queueOf p' (detachPiece id (statusTaken p u)) := by
      unfold queueOf
      rw [hpsc']
    rw [hqueue, hdetach, ← hsame]
    exact mapVec_get ..
  · have hcontrol : (lastLeft p id q u).mst = (statusTaken p u).mst :=
      congrArg (·.2.2.1) (leavesPart_control id (q.shadow.map (·.port)) (statusTaken p u))
    rw [hcontrol, hmst]

/-- R103: the part once the cursor has advanced over a copy that has left `v`. -/
def copyDone (id : PieceId) (m : Move) (v : State) : State :=
  chunkFollows (waitersJoin v.psc.waiting (cursorAdvanced (moveLess id m) v))

/-- R100 to R103, R107: what the good end of a copy makes of the move, of the pieces that waited and of the queues. -/
theorem CopyLeft.done {v : State} (h : CopyLeft id m u v) (hid : id ∉ u.psc.waiting)
    (hjoin : ∀ j ∈ u.psc.waiting, Joins u j) :
    ∃ x m', copyDone id m v = (v.setPsc x).setMve (some m') ∧ m' = nextMove (moveCopied id m) (v.setPsc x) ∧
      x.waiting = [] ∧
      (∀ j, pieceOf j (copyDone id m v) = if j ∈ u.psc.waiting then (pieceOf j v).map inShadow else pieceOf j v) ∧
      ∀ p, queueOf p (copyDone id m v) = (queueOf p u).filter (· ≠ id) ++ u.psc.waiting.filter (goesTo p u) := by
  have hne {j : PieceId} (hj : j ∈ u.psc.waiting) : j ≠ id := fun e => hid (e ▸ hj)
  have hjoin' : ∀ j ∈ v.psc.waiting, Joins (cursorAdvanced (moveLess id m) v) j := by
    intro j hj
    rw [h.waiting] at hj
    obtain ⟨r, sj, hr, hsj, hin⟩ := hjoin j hj
    exact ⟨r, sj, (h.pieces j (hne hj)).trans hr, hsj, (h.service sj.port).mpr hin⟩
  obtain ⟨⟨x, hx, hw⟩, hpieces, hqueues⟩ := waitersJoin_spec v.psc.waiting (cursorAdvanced (moveLess id m) v) hjoin'
  have hmove : (waitersJoin v.psc.waiting (cursorAdvanced (moveLess id m) v)).mve = some (moveCopied id m) := by
    rw [hx]
    rfl
  have hdone := chunkFollows_eq hmove
  rw [hx] at hdone
  have hdone' : copyDone id m v = (v.setPsc x).setMve (some (nextMove (moveCopied id m)
      ((cursorAdvanced (moveLess id m) v).setPsc x))) := by
    rw [copyDone, hx]
    exact hdone
  have hnext : nextMove (moveCopied id m) ((cursorAdvanced (moveLess id m) v).setPsc x) =
    nextMove (moveCopied id m) (v.setPsc x) := rfl
  have hpsc : (copyDone id m v).psc = (waitersJoin v.psc.waiting (cursorAdvanced (moveLess id m) v)).psc := by
    rw [hdone', hx]
    rfl
  refine ⟨x, _, hdone', hnext, hw, fun j => ?_, fun p => ?_⟩
  · have hj : pieceOf j (copyDone id m v) = pieceOf j (waitersJoin v.psc.waiting (cursorAdvanced (moveLess id m) v)) := by
      unfold pieceOf
      rw [hpsc]
    rw [hj, hpieces, h.waiting]
    rfl
  · have hj : queueOf p (copyDone id m v) = queueOf p (waitersJoin v.psc.waiting (cursorAdvanced (moveLess id m) v)) := by
      unfold queueOf
      rw [hpsc]
    rw [hj, hqueues, h.waiting, ← h.queues]
    congr 1
    refine List.filter_congr fun j hj => ?_
    unfold goesTo
    rw [← h.pieces j (hne hj)]
    rfl

/-- R103: the good end of the copy of the chunk in flight. -/
theorem copy_done {op : MediaOp} {ch : Chunk} (hpend : (portOf p u).offlinePending = .no) (hq : pieceOf id u = some q)
    (hop : op = .wr ∧ q.verify = false ∨ op = .vf) (ho : q.owner = .move) (hm : u.mve = some m) (hpiece : m.piece = some id)
    (hc : m.chunk = some ch) (hid : id ∉ u.psc.waiting) (hjoin : ∀ j ∈ u.psc.waiting, Joins u j) :
    ∃ w m', goodStatus p id op true (statusTaken p u) = w ∧ (portOf p w).offlinePending = .no ∧
      PieceGone id q w ∧ w.mve = some m' ∧ m'.cursor = m.cursor + ch.count ∧
      m'.pending = (m.pending || decide (m.length ≤ m.cursor + ch.count ∧ (m.dual ≠ [] ∨ u.mst.op ≠ .idle))) ∧
      m'.piece = none ∧ m'.dual = m.dual ∧ id ∉ m'.shadows ∧
      (m'.chunk = if m.cursor + ch.count < m.length then some ⟨min 8 (m.length - (m.cursor + ch.count)), .held⟩
        else none) ∧
      (m.cursor + ch.count < m.length → ∀ t', t' ∈ m'.blocking ↔ BlocksChunk m' t' w) ∧
      w.psc.waiting = [] ∧
      (∀ j ∈ u.psc.waiting, ∀ r sj, pieceOf j u = some r → r.shadow = some sj →
        pieceOf j w = some { r with state := .shadow, shadow := some { sj with state := .queued } }) ∧
      ∀ p', queueOf p' w = (queueOf p' u).filter (· ≠ id) ++ u.psc.waiting.filter (goesTo p' u) := by
  have hq' : pieceOf id (statusTaken p u) = some q := (statusTaken_pieceOf id).trans hq
  have hleft := lastLeft_left (p := p) hq hm hid
  have hgone : PieceGone id q (lastLeft p id q u) := by
    have h := pieceEnds_gone hq' .done (q.shadow.map (·.port))
    rwa [pieceEnds_other hq' fun t h => nomatch ho.symm.trans h] at h
  have hport : (portOf p (lastLeft p id q u)).offlinePending = .no := by
    rw [lastLeft, leavesPart_pending]
    exact statusTaken_pending hpend
  have hgood : goodStatus p id op true (statusTaken p u) = copyDone id m (lastLeft p id q u) := by
    rw [goodStatus_dest hq' hop, destEnds_move hq' ho]
    exact advanceCursor_eq hleft.move
  generalize lastLeft p id q u = v at *
  obtain ⟨hnone, -, -, hfree, hgrants⟩ := hgone
  obtain ⟨x, m', hdone, hnext, hwaiting, hpieces, hqueues⟩ := hleft.done hid hjoin
  obtain ⟨hcursor, hdual, hpiece', hshadows, hpending⟩ := nextMove_fields (moveCopied id m) (v.setPsc x)
  obtain ⟨hchunk, hblocks⟩ := nextMove_chunk (m := moveCopied id m) (v.setPsc x) rfl
  rw [← hnext] at hcursor hdual hpiece' hshadows hpending hchunk hblocks
  have hat : (moveCopied id m).cursor = m.cursor + ch.count := by rw [moveCopied, hc]; rfl
  have hstore : (v.setPsc x).mst = u.mst := hleft.store
  rw [hat] at hcursor hpending hchunk hblocks
  rw [hstore] at hpending
  rw [hdone] at hgood hpieces hqueues
  refine ⟨(v.setPsc x).setMve (some m'), m', hgood, hport, ⟨?_, fun p' hmem => ?_, ?_, hfree, hgrants⟩, rfl, hcursor,
    hpending, hpiece'.trans (if_pos hpiece), hdual, ?_, hchunk, hblocks, hwaiting, fun j hj r sj hr hsj => ?_, hqueues⟩
  · rw [hpieces, if_neg hid]
    exact hnone
  · rw [hqueues, List.mem_append] at hmem
    obtain h | h := hmem
    · exact of_decide_eq_true (List.mem_filter.mp h).2 rfl
    · exact hid (List.mem_filter.mp h).1
  · have hnil : id ∉ x.waiting := by rw [hwaiting]; exact List.not_mem_nil
    exact hnil
  · rw [hshadows]
    exact notMem_leaveSet id m.shadows
  · have hne : j ≠ id := fun e => hid (e ▸ hj)
    rw [hpieces, if_pos hj, hleft.pieces j hne, hr, Option.map_some, inShadow, hsj]
    rfl

end Copy

/-- Settles O43: a source phase that is over, and the good end of a destination write and of a copy. -/
theorem destinationPhase : Obligations.DestinationPhase := by
  intro s u p id op dest q sh hs x c hready hout hpend hq hsh hread sourceEnd waits destEnd
  refine ⟨fun hover hnot hin => ?_, fun hover hwait => ?_, fun t e hend hk ho hp he hr => ?_,
    fun m ch hend hk ho hm hpiece hc hid hjoin => ?_⟩
  · obtain ⟨w, hgood, hport, h⟩ := sourceOver_joins hpend hq hsh hover hnot hin
    exact ⟨w, exec_mediaStsOk_alone hs hready hout hq hread hgood hport, h⟩
  · obtain ⟨w, hgood, hport, h⟩ := sourceOver_waits hpend hq hsh hover hwait
    exact ⟨w, exec_mediaStsOk_alone hs hready hout hq hread hgood hport, h⟩
  · obtain ⟨rfl, hop⟩ := hend
    obtain ⟨w, hgood, hport, h⟩ := destWrite_done hpend hready hq hsh hop ho hp he hr
    exact ⟨w, exec_mediaStsOk_alone hs hready hout hq hread hgood hport, h⟩
  · obtain ⟨rfl, hop⟩ := hend
    obtain ⟨w, m', hgood, hport, h⟩ := copy_done hpend hq hop ho hm hpiece hc hid hjoin
    exact ⟨w, m', exec_mediaStsOk_alone hs hready hout hq hread hgood hport, h⟩

end Sys2Proof.Machine
end

section
/-! SUPPORT. The segments of a request (R12, R14): each extent that it meets is cut into runs of one target kind, which
lie one behind the other. -/

namespace Sys2Proof.Machine

/-! ### Segments one behind the other -/

/-- R12: a segment holds a request offset. -/
def holds (g : Segment) (i : Nat) : Prop := g.offset ≤ i ∧ i < g.offset + g.length

/-- R12: segments lie one behind the other, from one request offset to another. -/
def Tiles (a b : Nat) : List Segment → Prop
  | [] => a = b
  | g :: gs => g.offset = a ∧ 0 < g.length ∧ Tiles (a + g.length) b gs

namespace Tiles

variable {a b c : Nat} {gs hs : List Segment}

theorem append (h : Tiles a b gs) (k : Tiles b c hs) : Tiles a c (gs ++ hs) := by
  induction gs generalizing a with
  | nil => exact (show a = b from h) ▸ k
  | cons g gs ih =>
    obtain ⟨hoffset, hpos, hrest⟩ := h
    exact ⟨hoffset, hpos, ih hrest⟩

theorem sum (h : Tiles a b gs) : a + (gs.map (·.length)).sum = b := by
  induction gs generalizing a with
  | nil => exact h
  | cons g gs ih =>
    obtain ⟨-, -, hrest⟩ := h
    rw [List.map_cons, List.sum_cons, ← Nat.add_assoc]
    exact ih hrest

theorem get (h : Tiles a b gs) {k : Nat} {g : Segment} (hg : gs[k]? = some g) :
    0 < g.length ∧ g.offset = a + ((gs.take k).map (·.length)).sum := by
  induction gs generalizing a k with
  | nil => nomatch hg
  | cons g' gs ih =>
    obtain ⟨hoffset, hpos, hrest⟩ := h
    cases k with
    | zero =>
      obtain rfl := Option.some.inj hg
      exact ⟨hpos, hoffset⟩
    | succ k =>
      obtain ⟨hpos', hoffset'⟩ := ih hrest hg
      rw [List.take_succ_cons, List.map_cons, List.sum_cons, ← Nat.add_assoc]
      exact ⟨hpos', hoffset'⟩

theorem within (h : Tiles a b gs) {g : Segment} (hg : g ∈ gs) : a ≤ g.offset ∧ 0 < g.length ∧ g.offset + g.length ≤ b := by
  induction gs generalizing a with
  | nil => nomatch hg
  | cons g' gs ih =>
    have hsum := h.sum
    obtain ⟨hoffset, hpos, hrest⟩ := h
    obtain rfl | hg := List.mem_cons.mp hg
    · rw [List.map_cons, List.sum_cons] at hsum
      exact ⟨Nat.le_of_eq hoffset.symm, hpos, by omega⟩
    · obtain ⟨hlow, hrest⟩ := ih hrest hg
      exact ⟨by omega, hrest⟩

/-- R12: a request offset lies in one segment. -/
theorem unique (h : Tiles a b gs) {g g' : Segment} (hg : g ∈ gs) (hg' : g' ∈ gs) {i : Nat} (hi : holds g i)
    (hi' : holds g' i) : g = g' := by
  unfold holds at hi hi'
  induction gs generalizing a with
  | nil => nomatch hg
  | cons f gs ih =>
    obtain ⟨hoffset, -, hrest⟩ := h
    obtain rfl | hin := List.mem_cons.mp hg
    · obtain rfl | hin' := List.mem_cons.mp hg'
      · rfl
      · have := hrest.within hin'
        omega
    · obtain rfl | hin' := List.mem_cons.mp hg'
      · have := hrest.within hin
        omega
      · exact ih hrest hin hin'

/-- R12: a segment starts where no segment goes on. -/
theorem starts_iff (h : Tiles a b gs) {i : Nat} (hi : ∃ g ∈ gs, holds g (i + 1)) :
    (∃ g ∈ gs, g.offset = i + 1) ↔ ¬∃ g ∈ gs, holds g i ∧ holds g (i + 1) := by
  constructor
  · rintro ⟨g, hg, hoffset⟩ ⟨g', hg', hi, hi'⟩
    have hpos := (h.within hg).2.1
    obtain rfl := h.unique hg hg' (i := i + 1) ⟨by omega, by omega⟩ hi'
    have := hi.1
    omega
  · intro hnot
    obtain ⟨g, hg, hlow, hhigh⟩ := hi
    refine ⟨g, hg, ?_⟩
    refine Classical.byContradiction fun hne => ?_
    exact hnot ⟨g, hg, ⟨by omega, by omega⟩, hlow, hhigh⟩

end Tiles

/-! ### The runs of one extent (R14) -/

theorem mem_divided {off e0 start a b : Nat} {port : PortId} {verify : Bool} {target : Target} {g : Segment} :
    g ∈ divided off e0 port start verify a b target ↔
      a < b ∧ g = ⟨off + (a - e0), b - a, port, start + (a - e0), verify, target⟩ := by
  unfold divided
  split
  · next h => simp [h]
  · next h => simp [h]

/-- R14: a run from extent offset `x` to `y`, which is absent when it is empty. -/
theorem tiles_divided {off e0 start a b x y : Nat} (port : PortId) (verify : Bool) (target : Target) (hx : e0 ≤ x)
    (hrun : a < b → a = x ∧ b = y) (hnone : b ≤ a → x = y) :
    Tiles (off + (x - e0)) (off + (y - e0)) (divided off e0 port start verify a b target) := by
  unfold divided
  split
  · next h =>
    obtain ⟨rfl, rfl⟩ := hrun h
    refine ⟨rfl, Nat.sub_pos_of_lt h, ?_⟩
    show off + (a - e0) + (b - a) = off + (b - e0)
    omega
  · next h =>
    have := hnone (Nat.not_lt.mp h)
    exact this ▸ rfl

/-- R14: the end of the chunk in flight, by extent offset. -/
def chunkEnd (mv : Move) : Nat := mv.cursor + (mv.chunk.map (·.count)).getD 0

/-- R14: the target kind of a block of a WRITE in the MOVING extent: behind the cursor, in the chunk, or above it. -/
def runKind (mv : Move) (o : Nat) : Nat := if o < mv.cursor then 1 else if o < chunkEnd mv then 2 else 0

/-- R14: its target, in a run that begins at extent offset `d`. -/
def runTarget (mv : Move) (o d : Nat) : Target :=
  if o < mv.cursor then .dual mv.dstPort (mv.dstStart + d)
  else if o < chunkEnd mv then .dualAfterChunk mv.dstPort (mv.dstStart + d)
  else .single

section Runs

variable {mv : Move} {off e0 e1 start : Nat} {port : PortId} {verify : Bool}

theorem cursor_le_chunkEnd (mv : Move) : mv.cursor ≤ chunkEnd mv := Nat.le_add_right ..

theorem tiles_divideByMove (h : e0 ≤ e1) : Tiles off (off + (e1 - e0)) (divideByMove mv off e0 e1 port start verify) := by
  have hle := cursor_le_chunkEnd mv
  unfold divideByMove
  have h1 := tiles_divided (off := off) (e0 := e0) (start := start) (a := e0) (b := min e1 mv.cursor) (x := e0)
    (y := max e0 (min e1 mv.cursor)) port verify (.dual mv.dstPort (mv.dstStart + e0)) (by omega) (by omega) (by omega)
  have h2 := tiles_divided (off := off) (e0 := e0) (start := start) (a := max e0 mv.cursor) (b := min e1 (chunkEnd mv))
    (x := max e0 (min e1 mv.cursor)) (y := max e0 (min e1 (chunkEnd mv))) port verify
    (.dualAfterChunk mv.dstPort (mv.dstStart + max e0 mv.cursor)) (by omega) (by omega) (by omega)
  have h3 := tiles_divided (off := off) (e0 := e0) (start := start) (a := max e0 (chunkEnd mv)) (b := e1)
    (x := max e0 (min e1 (chunkEnd mv))) (y := e1) port verify .single (by omega) (by omega) (by omega)
  have hall := (h1.append h2).append h3
  rwa [Nat.sub_self, Nat.add_zero] at hall

theorem mem_divideByMove {g : Segment} : g ∈ divideByMove mv off e0 e1 port start verify ↔
    e0 < min e1 mv.cursor ∧ g = ⟨off + (e0 - e0), min e1 mv.cursor - e0, port, start + (e0 - e0), verify,
      .dual mv.dstPort (mv.dstStart + e0)⟩ ∨
    max e0 mv.cursor < min e1 (chunkEnd mv) ∧ g = ⟨off + (max e0 mv.cursor - e0),
      min e1 (chunkEnd mv) - max e0 mv.cursor, port, start + (max e0 mv.cursor - e0), verify,
      .dualAfterChunk mv.dstPort (mv.dstStart + max e0 mv.cursor)⟩ ∨
    max e0 (chunkEnd mv) < e1 ∧ g = ⟨off + (max e0 (chunkEnd mv) - e0), e1 - max e0 (chunkEnd mv), port,
      start + (max e0 (chunkEnd mv) - e0), verify, .single⟩ := by
  unfold divideByMove
  rw [List.mem_append, List.mem_append, mem_divided, mem_divided, mem_divided, or_assoc]
  rfl

/-- R14: a run is of one kind. -/
theorem divideByMove_kind {g : Segment} (hg : g ∈ divideByMove mv off e0 e1 port start verify) {o o' : Nat} (ho : e0 ≤ o)
    (ho' : e0 ≤ o') (h : holds g (off + (o - e0))) (h' : holds g (off + (o' - e0))) : runKind mv o = runKind mv o' := by
  unfold runKind
  obtain ⟨-, rfl⟩ | ⟨-, rfl⟩ | ⟨-, rfl⟩ := mem_divideByMove.mp hg <;> unfold holds at h h' <;> dsimp only at h h'
  · rw [if_pos (by omega), if_pos (by omega)]
  · rw [if_neg (by omega), if_pos (by omega), if_neg (by omega), if_pos (by omega)]
  · have := cursor_le_chunkEnd mv
    rw [if_neg (by omega), if_neg (by omega), if_neg (by omega), if_neg (by omega)]

/-- R14: the run that a block lies in, which goes on over the next block of its kind. -/
theorem divideByMove_holds {o : Nat} (ho : e0 ≤ o) (ho' : o < e1) :
    ∃ g ∈ divideByMove mv off e0 e1 port start verify, holds g (off + (o - e0)) ∧ g.port = port ∧ g.verify = verify ∧
      g.start + (off + (o - e0) - g.offset) = start + (o - e0) ∧
      g.target = runTarget mv o (o - (off + (o - e0) - g.offset)) ∧
      (o + 1 < e1 → runKind mv (o + 1) = runKind mv o → holds g (off + (o + 1 - e0))) := by
  have hle := cursor_le_chunkEnd mv
  unfold holds runKind runTarget
  by_cases h1 : o < mv.cursor
  · refine ⟨_, mem_divideByMove.mpr (.inl ⟨by omega, rfl⟩), ⟨by dsimp only; omega, by dsimp only; omega⟩, rfl, rfl,
      by dsimp only; omega, ?_, fun h hk => ?_⟩
    · rw [if_pos h1]
      dsimp only
      congr 2
      omega
    · have hnext : o + 1 < mv.cursor := by
        refine Classical.byContradiction fun hn => ?_
        rw [if_neg hn, if_pos h1] at hk
        split at hk <;> omega
      exact ⟨by dsimp only; omega, by dsimp only; omega⟩
  · by_cases h2 : o < chunkEnd mv
    · refine ⟨_, mem_divideByMove.mpr (.inr (.inl ⟨by omega, rfl⟩)), ⟨by dsimp only; omega, by dsimp only; omega⟩, rfl, rfl,
        by dsimp only; omega, ?_, fun h hk => ?_⟩
      · rw [if_neg h1, if_pos h2]
        dsimp only
        congr 2
        omega
      · have hnext : o + 1 < chunkEnd mv := by
          refine Classical.byContradiction fun hn => ?_
          rw [if_neg (by omega), if_neg hn, if_neg h1, if_pos h2] at hk
          omega
        exact ⟨by dsimp only; omega, by dsimp only; omega⟩
    · refine ⟨_, mem_divideByMove.mpr (.inr (.inr ⟨by omega, rfl⟩)), ⟨by dsimp only; omega, by dsimp only; omega⟩, rfl, rfl,
        by dsimp only; omega, ?_, fun h hk => ⟨by dsimp only; omega, by dsimp only; omega⟩⟩
      rw [if_neg h1, if_neg h2]

end Runs

end Sys2Proof.Machine
end

section
/-! SUPPORT. The segment list of a request over the extents of a map (R6, R12, R14). -/

namespace Sys2Proof.Machine

/-! ### The segments in one extent -/

/-- R14: the move that divides the segments of a request in an extent. -/
def movingIn (mve : Option Move) (k : Kind) (e : Extent) : Option Move := if k = .write ∧ e.moving = true then mve else none

/-- R14: the target kind of a block, by its extent offset. -/
def kindIn (mve : Option Move) (k : Kind) (e : Extent) (o : Nat) : Nat :=
  match movingIn mve k e with
  | some mv => runKind mv o
  | none => 0

/-- R14: the target of a block in a run that begins at extent offset `d`. -/
def targetIn (mve : Option Move) (k : Kind) (e : Extent) (o d : Nat) : Target :=
  match movingIn mve k e with
  | some mv => runTarget mv o d
  | none => .single

theorem kindIn_none (k : Kind) (e : Extent) (o : Nat) : kindIn none k e o = 0 := by
  simp only [kindIn, movingIn, ite_self]

theorem kindIn_some (m : Move) (k : Kind) (e : Extent) (o : Nat) :
    kindIn (some m) k e o = if k = .write ∧ e.moving = true then runKind m o else 0 := by
  unfold kindIn movingIn
  by_cases h : k = .write ∧ e.moving = true
  · rw [if_pos h, if_pos h]
  · rw [if_neg h, if_neg h]

theorem targetIn_none (k : Kind) (e : Extent) (o d : Nat) : targetIn none k e o d = .single := by
  simp only [targetIn, movingIn, ite_self]

theorem targetIn_some (m : Move) (k : Kind) (e : Extent) (o d : Nat) :
    targetIn (some m) k e o d = if k = .write ∧ e.moving = true then runTarget m o d else .single := by
  unfold targetIn movingIn
  by_cases h : k = .write ∧ e.moving = true
  · rw [if_pos h, if_pos h]
  · rw [if_neg h, if_neg h]

/-- R12: an extent covers a block. -/
def spans (e : Extent) (x : Nat) : Prop := e.lstart.toNat ≤ x ∧ x < logicalStop e

/-- R12: the first and the stop of the blocks [lba, lba + count) that lie in an extent. -/
def clipLow (lba : Nat) (e : Extent) : Nat := max lba e.lstart.toNat

def clipHigh (stop : Nat) (e : Extent) : Nat := min stop (logicalStop e)

/-- R12, R14: a segment names the place of the block at request offset `i` in the extent. -/
structure NamesPlace (mve : Option Move) (k : Kind) (lba : Nat) (e : Extent) (i : Nat) (g : Segment) : Prop where
  port : g.port = extentPort e
  verify : g.verify = e.verify
  start : g.start + (i - g.offset) = e.pstart.toNat + (lba + i - e.lstart.toNat)
  target : g.target = targetIn mve k e (lba + i - e.lstart.toNat) (lba + i - e.lstart.toNat - (i - g.offset))

section Extent

variable {mve : Option Move} {k : Kind} {lba count : Nat} {e : Extent}

theorem segmentsIn_empty (h : clipHigh (lba + count) e ≤ clipLow lba e) : segmentsIn mve k lba count e = [] :=
  if_neg (Nat.not_lt.mpr h)

/-- R14: the segments of an extent that the request meets. -/
theorem segmentsIn_eq (h : clipLow lba e < clipHigh (lba + count) e) : segmentsIn mve k lba count e =
    match movingIn mve k e with
    | some mv => divideByMove mv (clipLow lba e - lba) (clipLow lba e - e.lstart.toNat)
        (clipHigh (lba + count) e - e.lstart.toNat) (extentPort e)
        (e.pstart.toNat + (clipLow lba e - e.lstart.toNat)) e.verify
    | none => [⟨clipLow lba e - lba, clipHigh (lba + count) e - clipLow lba e, extentPort e,
        e.pstart.toNat + (clipLow lba e - e.lstart.toNat), e.verify, .single⟩] := by
  unfold segmentsIn
  refine (if_pos h).trans ?_
  rfl

theorem segmentsIn_tiles (h : clipLow lba e < clipHigh (lba + count) e) :
    Tiles (clipLow lba e - lba) (clipHigh (lba + count) e - lba) (segmentsIn mve k lba count e) := by
  have hlow : lba ≤ clipLow lba e ∧ e.lstart.toNat ≤ clipLow lba e := ⟨Nat.le_max_left .., Nat.le_max_right ..⟩
  rw [segmentsIn_eq h]
  cases movingIn mve k e with
  | none =>
    refine ⟨rfl, Nat.sub_pos_of_lt h, ?_⟩
    show clipLow lba e - lba + (clipHigh (lba + count) e - clipLow lba e) = clipHigh (lba + count) e - lba
    omega
  | some mv =>
    have htiles := tiles_divideByMove (mv := mv) (off := clipLow lba e - lba) (e0 := clipLow lba e - e.lstart.toNat)
      (e1 := clipHigh (lba + count) e - e.lstart.toNat) (start := e.pstart.toNat + (clipLow lba e - e.lstart.toNat))
      (port := extentPort e) (verify := e.verify) (by omega)
    have hstop : clipLow lba e - lba + (clipHigh (lba + count) e - e.lstart.toNat - (clipLow lba e - e.lstart.toNat)) =
      clipHigh (lba + count) e - lba := by omega
    rwa [hstop] at htiles

/-- R12: the segments of an extent hold blocks of it. -/
theorem segmentsIn_spans {g : Segment} (hg : g ∈ segmentsIn mve k lba count e) {i : Nat} (hi : holds g i) :
    clipLow lba e ≤ lba + i ∧ lba + i < clipHigh (lba + count) e := by
  by_cases h : clipLow lba e < clipHigh (lba + count) e
  · have hlow : lba ≤ clipLow lba e := Nat.le_max_left ..
    have hwithin := (segmentsIn_tiles (mve := mve) (k := k) h).within hg
    unfold holds at hi
    omega
  · rw [segmentsIn_empty (Nat.not_lt.mp h)] at hg
    nomatch hg

/-- R14: each of them is of one target kind. -/
theorem segmentsIn_kind {g : Segment} (hg : g ∈ segmentsIn mve k lba count e) {i i' : Nat} (hi : holds g i)
    (hi' : holds g i') : kindIn mve k e (lba + i - e.lstart.toNat) = kindIn mve k e (lba + i' - e.lstart.toNat) := by
  have hspan := segmentsIn_spans hg hi
  have hspan' := segmentsIn_spans hg hi'
  have hlow : lba ≤ clipLow lba e ∧ e.lstart.toNat ≤ clipLow lba e := ⟨Nat.le_max_left .., Nat.le_max_right ..⟩
  rw [segmentsIn_eq (by omega)] at hg
  unfold kindIn
  cases hm : movingIn mve k e with
  | none => rfl
  | some mv =>
    rw [hm] at hg
    refine divideByMove_kind hg (by omega) (by omega) ?_ ?_
    · rwa [show clipLow lba e - lba + (lba + i - e.lstart.toNat - (clipLow lba e - e.lstart.toNat)) = i by omega]
    · rwa [show clipLow lba e - lba + (lba + i' - e.lstart.toNat - (clipLow lba e - e.lstart.toNat)) = i' by omega]

/-- R12, R14: a block of the extent lies in a segment that names its place, and which goes on over the next block of the
extent when that is of its kind. -/
theorem segmentsIn_holds {i : Nat} (hi : i < count) (hs : spans e (lba + i)) :
    ∃ g ∈ segmentsIn mve k lba count e, holds g i ∧ NamesPlace mve k lba e i g ∧
      (i + 1 < count → spans e (lba + (i + 1)) →
        kindIn mve k e (lba + (i + 1) - e.lstart.toNat) = kindIn mve k e (lba + i - e.lstart.toNat) → holds g (i + 1)) := by
  have hlow : lba ≤ clipLow lba e ∧ e.lstart.toNat ≤ clipLow lba e ∧ clipLow lba e ≤ lba + i :=
    ⟨Nat.le_max_left .., Nat.le_max_right .., Nat.max_le.mpr ⟨Nat.le_add_right .., hs.1⟩⟩
  have hhigh : ∀ x, x < lba + count → spans e x → x < clipHigh (lba + count) e := fun x hx h => Nat.lt_min.mpr ⟨hx, h.2⟩
  have hin := hhigh (lba + i) (by omega) hs
  rw [segmentsIn_eq (by omega)]
  unfold kindIn
  cases hm : movingIn mve k e with
  | none =>
    refine ⟨_, List.mem_singleton_self _, ⟨?_, ?_⟩, ⟨rfl, rfl, ?_, ?_⟩, fun hn h _ => ?_⟩
    · dsimp only
      omega
    · dsimp only
      omega
    · dsimp only
      omega
    · rw [targetIn, hm]
    · have := hhigh _ (by omega) h
      exact ⟨by dsimp only; omega, by dsimp only; omega⟩
  | some mv =>
    obtain ⟨g, hg, hold, hport, hverify, hstart, htarget, hnext⟩ := divideByMove_holds (mv := mv)
      (off := clipLow lba e - lba) (e0 := clipLow lba e - e.lstart.toNat) (e1 := clipHigh (lba + count) e - e.lstart.toNat)
      (start := e.pstart.toNat + (clipLow lba e - e.lstart.toNat)) (port := extentPort e) (verify := e.verify)
      (o := lba + i - e.lstart.toNat) (by omega) (by omega)
    have hat : clipLow lba e - lba + (lba + i - e.lstart.toNat - (clipLow lba e - e.lstart.toNat)) = i := by omega
    rw [hat] at hold hstart htarget
    refine ⟨g, hg, hold, ⟨hport, hverify, ?_, ?_⟩, fun hn h hk => ?_⟩
    · rw [hstart]
      omega
    · rw [targetIn, hm]
      exact htarget
    · have := hhigh _ (by omega) h
      have hoff : lba + (i + 1) - e.lstart.toNat = lba + i - e.lstart.toNat + 1 := by omega
      rw [hoff] at hk
      have hnext := hnext (by omega) hk
      rwa [show clipLow lba e - lba + (lba + i - e.lstart.toNat + 1 - (clipLow lba e - e.lstart.toNat)) = i + 1 by omega]
        at hnext

end Extent

/-! ### The segments over a list of extents -/

/-- R5: an extent lies behind another. -/
def Behind (b e : Extent) : Prop := logicalStop b ≤ e.lstart.toNat

section Extents

variable {mve : Option Move} {k : Kind} {lba count : Nat}

/-- R5: extents one behind the other cover a block once. -/
theorem spans_unique {l : List Extent} (hl : l.Pairwise Behind) {b e : Extent} (hb : b ∈ l) (he : e ∈ l) {x : Nat}
    (hbx : spans b x) (hex : spans e x) : b = e := by
  unfold spans at hbx hex
  induction l with
  | nil => nomatch hb
  | cons a l ih =>
    obtain ⟨hbehind, hl⟩ := List.pairwise_cons.mp hl
    obtain rfl | hb' := List.mem_cons.mp hb
    · obtain rfl | he' := List.mem_cons.mp he
      · rfl
      · have hafter : logicalStop b ≤ e.lstart.toNat := hbehind e he'
        omega
    · obtain rfl | he' := List.mem_cons.mp he
      · have hafter : logicalStop e ≤ b.lstart.toNat := hbehind b hb'
        omega
      · exact ih hl hb' he'

/-- R12: over extents one behind the other that cover every block from `x` on, the segments lie one behind the other. -/
theorem tiles_extents {l : List Extent} (hl : l.Pairwise Behind) {x : Nat} (hx : lba ≤ x) (hstop : x ≤ lba + count)
    (hlow : ∀ e ∈ l, clipLow lba e < clipHigh (lba + count) e → x ≤ clipLow lba e)
    (hcover : ∀ y, x ≤ y → y < lba + count → ∃ e ∈ l, spans e y) :
    Tiles (x - lba) (lba + count - lba) (l.flatMap (segmentsIn mve k lba count)) := by
  induction l generalizing x with
  | nil =>
    obtain h | h := Nat.lt_or_ge x (lba + count)
    · obtain ⟨e, he, -⟩ := hcover x (Nat.le_refl x) h
      nomatch he
    · exact congrArg (· - lba) (Nat.le_antisymm hstop h)
  | cons e l ih =>
    obtain ⟨hbehind, hl⟩ := List.pairwise_cons.mp hl
    have hlow' := fun e' he' => hlow e' (List.mem_cons_of_mem e he')
    rw [List.flatMap_cons]
    by_cases hmeet : clipLow lba e < clipHigh (lba + count) e
    · have hclip : ∀ y, spans e y → lba ≤ y → clipLow lba e ≤ y := fun y h hy => Nat.max_le.mpr ⟨hy, h.1⟩
      have hends : clipHigh (lba + count) e ≤ logicalStop e ∧ clipHigh (lba + count) e ≤ lba + count :=
        ⟨Nat.min_le_right .., Nat.min_le_left ..⟩
      have hfirst : x = clipLow lba e := by
        refine Nat.le_antisymm (hlow e (List.mem_cons_self ..) hmeet) (Nat.le_of_not_lt fun hlt => ?_)
        obtain ⟨e', he', hspan⟩ := hcover x (Nat.le_refl x) (by omega)
        obtain rfl | he' := List.mem_cons.mp he'
        · have := hclip x hspan hx
          omega
        · have hafter : logicalStop e ≤ e'.lstart.toNat := hbehind e' he'
          have := hspan.1
          omega
      have hrest : ∀ y, clipHigh (lba + count) e ≤ y → y < lba + count → ∃ e' ∈ l, spans e' y := by
        intro y hy hlt
        obtain ⟨e', he', hspan⟩ := hcover y (by omega) hlt
        obtain rfl | he' := List.mem_cons.mp he'
        · have hy' : y < clipHigh (lba + count) e' := Nat.lt_min.mpr ⟨hlt, hspan.2⟩
          omega
        · exact ⟨e', he', hspan⟩
      have hnext := ih hl (x := clipHigh (lba + count) e) (by omega) hends.2 (fun e' he' _ => ?_) hrest
      · exact hfirst ▸ (segmentsIn_tiles hmeet).append hnext
      · have hafter : logicalStop e ≤ e'.lstart.toNat := hbehind e' he'
        have : e'.lstart.toNat ≤ clipLow lba e' := Nat.le_max_right ..
        omega
    · rw [segmentsIn_empty (Nat.not_lt.mp hmeet), List.nil_append]
      refine ih hl hx hstop hlow' fun y hy hlt => ?_
      obtain ⟨e', he', hspan⟩ := hcover y hy hlt
      obtain rfl | he' := List.mem_cons.mp he'
      · have h1 : clipLow lba e' ≤ y := Nat.max_le.mpr ⟨by omega, hspan.1⟩
        have h2 : y < clipHigh (lba + count) e' := Nat.lt_min.mpr ⟨hlt, hspan.2⟩
        omega
      · exact ⟨e', he', hspan⟩

end Extents

end Sys2Proof.Machine
end

section
/-! SUPPORT. Resolution at the intake head (R10 to R15, R17, R104). -/

namespace Sys2Proof.Machine

/-! ### The extents of a unit under a map of the shape of R5 -/

/-- R5: a record precedes another in the order of units and logical starts. -/
def Precedes (b e : Extent) : Prop := b.unit.toNat ≤ e.unit.toNat ∧ (b.unit = e.unit → Behind b e)

theorem Precedes.trans {a b c : Extent} (h : Precedes a b) (k : Precedes b c) : Precedes a c := by
  refine ⟨Nat.le_trans h.1 k.1, fun hunit => ?_⟩
  have hab : a.unit = b.unit := BitVec.eq_of_toNat_eq (Nat.le_antisymm h.1 (hunit ▸ k.1))
  have h1 : logicalStop a ≤ b.lstart.toNat := h.2 hab
  have h2 : logicalStop b ≤ c.lstart.toNat := k.2 (hab.symm.trans hunit)
  have h3 : b.lstart.toNat ≤ logicalStop b := Nat.le_add_right ..
  exact Nat.le_trans h1 (Nat.le_trans h3 h2)

theorem Precedes.of_follows {b e : Extent} (h : Follows b e) : Precedes b e := by
  obtain ⟨horder, hmeet⟩ := h
  refine ⟨?_, fun hunit => Nat.le_of_not_lt fun hlt => hmeet ⟨hunit, hlt⟩⟩
  obtain h | ⟨h, -⟩ := horder
  · exact Nat.le_of_lt h
  · exact Nat.le_of_eq (congrArg BitVec.toNat h)

/-- R5: in a table without a failing record each used record follows the one before it, which is used. -/
theorem follows_of_passes {m : ExtMap} (h : ∀ j, ¬RecordFails m j) {i j : Fin 64} (hij : i.val + 1 = j.val)
    (hj : m[j].used = 1) : Follows m[i] m[j] ∧ m[i].used = 1 := by
  have hpass := mt (recordFails_iff_of_used hj).mpr (h j)
  simp only [not_or, not_exists, not_and, Classical.not_not] at hpass
  obtain ⟨-, hcontiguous, -, hfollows, -⟩ := hpass
  exact ⟨hfollows i hij, (used_eq_one_iff_of_not_recordFails (h i)).mpr
    (hcontiguous i (Fin.lt_def.mpr (Nat.lt_of_lt_of_eq (Nat.lt_succ_self _) hij)))⟩

theorem precedes_of_passes {m : ExtMap} (h : ∀ j, ¬RecordFails m j) (n : Nat) {i j : Fin 64} (hij : i.val + 1 + n = j.val)
    (hj : m[j].used = 1) : Precedes m[i] m[j] := by
  induction n generalizing j with
  | zero => exact .of_follows (follows_of_passes h hij hj).1
  | succ n ih =>
    have hlt : i.val + 1 + n < 64 := by omega
    obtain ⟨hfollows, hused⟩ := follows_of_passes h (i := ⟨i.val + 1 + n, hlt⟩) (j := j) hij hj
    exact (ih (j := ⟨i.val + 1 + n, hlt⟩) rfl hused).trans (.of_follows hfollows)

/-- R12: the extents of a unit, in the order of their records. -/
def unitExtents (m : ExtMap) (unit : Byte) : List Extent := m.toList.filter fun e => isUsed e && e.unit = unit

theorem mem_unitExtents {m : ExtMap} {unit : Byte} {e : Extent} :
    e ∈ unitExtents m unit ↔ e ∈ m.toList ∧ e.used = 1 ∧ e.unit = unit := by
  simp [unitExtents, isUsed]

theorem unitExtents_behind {m : ExtMap} (h : ∀ j, ¬RecordFails m j) (unit : Byte) :
    (unitExtents m unit).Pairwise Behind := by
  refine List.pairwise_filter.mpr (List.pairwise_iff_getElem.mpr fun i j hi hj hij hpi hpj => ?_)
  rw [Vector.length_toList] at hi hj
  rw [Vector.getElem_toList, Bool.and_eq_true, decide_eq_true_iff] at hpi hpj
  rw [Vector.getElem_toList, Vector.getElem_toList]
  have hprecedes := precedes_of_passes h (j - i - 1) (i := ⟨i, hi⟩) (j := ⟨j, hj⟩) (by dsimp only; omega)
    (of_decide_eq_true hpj.1)
  exact hprecedes.2 (hpi.2.trans hpj.2.symm)

/-! ### The extent that covers a block (R6) -/

section Blocks

variable {m : ExtMap} {mve : Option Move} {k : Kind} {unit : Byte} {lba count : Nat}

theorem coversBlock_iff {x : Nat} {e : Extent} :
    coversBlock unit x e = true ↔ e.used = 1 ∧ e.unit = unit ∧ spans e x := by
  simp [coversBlock, isUsed, spans, and_assoc]

theorem findExtent_spec {x : Nat} {e : Extent} (h : findExtent m unit x = some e) : e ∈ unitExtents m unit ∧ spans e x := by
  obtain ⟨hused, hunit, hspan⟩ := coversBlock_iff.mp (List.find?_some h)
  exact ⟨mem_unitExtents.mpr ⟨List.mem_of_find?_eq_some h, hused, hunit⟩, hspan⟩

theorem findExtent_of_behind (hl : (unitExtents m unit).Pairwise Behind) {x : Nat} {e : Extent} (he : e ∈ unitExtents m unit)
    (hspan : spans e x) : findExtent m unit x = some e := by
  obtain ⟨hmem, hused, hunit⟩ := mem_unitExtents.mp he
  cases h : findExtent m unit x with
  | none => exact absurd (coversBlock_iff.mpr ⟨hused, hunit, hspan⟩) (List.find?_eq_none.mp h e hmem)
  | some e' =>
    obtain ⟨he', hspan'⟩ := findExtent_spec h
    rw [spans_unique hl he' he hspan' hspan]

theorem segmentsOf_eq : segmentsOf m mve k unit lba count =
    (unitExtents m unit).flatMap (segmentsIn mve k lba count) := rfl

/-- R12, R14: the segment of a block names its place. -/
theorem segmentsOf_names {i : Nat} {e : Extent} (hi : i < count) (h : findExtent m unit (lba + i) = some e) :
    ∃ g ∈ segmentsOf m mve k unit lba count, holds g i ∧ NamesPlace mve k lba e i g := by
  obtain ⟨he, hspan⟩ := findExtent_spec h
  obtain ⟨g, hg, hold, hplace, -⟩ := segmentsIn_holds (mve := mve) (k := k) hi hspan
  exact ⟨g, List.mem_flatMap.mpr ⟨e, he, hg⟩, hold, hplace⟩

/-- R12: without gap, from the first block to the last. -/
theorem segmentsOf_tiles (hl : (unitExtents m unit).Pairwise Behind)
    (hcover : ∀ i, i < count → findExtent m unit (lba + i) ≠ none) :
    Tiles 0 count (segmentsOf m mve k unit lba count) := by
  have htiles := tiles_extents (mve := mve) (k := k) hl (lba := lba) (count := count) (x := lba) (Nat.le_refl lba)
    (Nat.le_add_right ..) (fun e _ _ => Nat.le_max_left ..) fun y hy hlt => ?_
  · rwa [Nat.sub_self, Nat.add_sub_cancel_left] at htiles
  · obtain ⟨i, rfl⟩ := Nat.exists_eq_add_of_le hy
    obtain ⟨e, he⟩ := Option.ne_none_iff_exists'.mp (hcover i (by omega))
    exact ⟨e, findExtent_spec he⟩

/-- R14: the target kind of a block. -/
def kindOfBlock (m : ExtMap) (mve : Option Move) (k : Kind) (unit : Byte) (lba i : Nat) : Nat :=
  match findExtent m unit (lba + i) with
  | some e => kindIn mve k e (lba + i - e.lstart.toNat)
  | none => 0

theorem kindOfBlock_of {i : Nat} {e : Extent} (h : findExtent m unit (lba + i) = some e) :
    kindOfBlock m mve k unit lba i = kindIn mve k e (lba + i - e.lstart.toNat) := by
  simp only [kindOfBlock, h]

/-- R12, R14: two neighbouring blocks lie in one segment when they lie in one extent and are of one kind. -/
theorem segmentsOf_joint (hl : (unitExtents m unit).Pairwise Behind)
    (hcover : ∀ i, i < count → findExtent m unit (lba + i) ≠ none) {i : Nat} (hi : i + 1 < count) :
    (∃ g ∈ segmentsOf m mve k unit lba count, holds g i ∧ holds g (i + 1)) ↔
      findExtent m unit (lba + i) = findExtent m unit (lba + (i + 1)) ∧
        kindOfBlock m mve k unit lba i = kindOfBlock m mve k unit lba (i + 1) := by
  constructor
  · rintro ⟨g, hg, hold, hold'⟩
    obtain ⟨e, he, hg⟩ := List.mem_flatMap.mp hg
    have hspan (x : Nat) (hx : holds g x) : spans e (lba + x) := by
      have hclip := segmentsIn_spans hg hx
      exact ⟨Nat.le_trans (Nat.le_max_right ..) hclip.1, Nat.lt_of_lt_of_le hclip.2 (Nat.min_le_right ..)⟩
    have hfind := findExtent_of_behind hl he (hspan i hold)
    have hfind' := findExtent_of_behind hl he (hspan (i + 1) hold')
    refine ⟨hfind.trans hfind'.symm, ?_⟩
    rw [kindOfBlock_of hfind, kindOfBlock_of hfind']
    exact segmentsIn_kind hg hold hold'
  · rintro ⟨hblock, hkind⟩
    obtain ⟨e, he⟩ := Option.ne_none_iff_exists'.mp (hcover i (by omega))
    have he' := hblock.symm.trans he
    rw [kindOfBlock_of he, kindOfBlock_of he'] at hkind
    obtain ⟨hmem, hspan⟩ := findExtent_spec he
    obtain ⟨-, hspan'⟩ := findExtent_spec he'
    obtain ⟨g, hg, hold, -, hnext⟩ := segmentsIn_holds (mve := mve) (k := k) (count := count) (by omega) hspan
    exact ⟨g, List.mem_flatMap.mpr ⟨e, hmem, hg⟩, hold, hnext hi hspan' hkind.symm⟩

/-- R12, R14: one segment for each extent met and target kind in it. -/
theorem segmentsOf_starts (hl : (unitExtents m unit).Pairwise Behind)
    (hcover : ∀ i, i < count → findExtent m unit (lba + i) ≠ none) {i : Nat} (hi : i + 1 < count) :
    (∃ g ∈ segmentsOf m mve k unit lba count, g.offset = i + 1) ↔
      findExtent m unit (lba + i) ≠ findExtent m unit (lba + (i + 1)) ∨
        kindOfBlock m mve k unit lba i ≠ kindOfBlock m mve k unit lba (i + 1) := by
  obtain ⟨e, he⟩ := Option.ne_none_iff_exists'.mp (hcover (i + 1) hi)
  obtain ⟨g, hg, hold, -⟩ := segmentsOf_names (mve := mve) (k := k) hi he
  rw [(segmentsOf_tiles hl hcover).starts_iff ⟨g, hg, hold⟩, segmentsOf_joint hl hcover hi, Classical.not_and_iff_not_or_not]

/-! ### The first block that a check refuses (R11) -/

theorem policyRefusal_some (k : Kind) (x : Extent) : policyRefusal k (some x) =
    if x.policy = 0 ∨ x.policy = 1 ∧ k ≠ .write then none
    else some (if x.policy = 1 then .writeProtected else .range) := by
  dsimp only [policyRefusal]
  by_cases h0 : x.policy = 0
  · rw [if_pos h0, if_pos (.inl h0)]
  · rw [if_neg h0]
    by_cases h1 : x.policy = 1
    · rw [if_pos h1, if_pos h1]
      by_cases hk : k = .write
      · rw [if_pos hk, if_neg (not_or.mpr ⟨h0, fun h => h.2 hk⟩)]
      · rw [if_neg hk, if_pos (.inr ⟨h1, hk⟩)]
    · rw [if_neg h1, if_neg h1, if_neg (not_or.mpr ⟨h0, fun h => h1 h.1⟩)]

theorem firstRefused_none {n : Nat} (h : ∀ i, i < n → policyRefusal k (findExtent m unit (lba + i)) = none) :
    firstRefused m k unit lba n = none := by
  induction n generalizing lba with
  | zero => rfl
  | succ n ih =>
    have hfirst : policyRefusal k (findExtent m unit lba) = none := h 0 (Nat.succ_pos n)
    simp only [firstRefused, hfirst]
    refine ih fun i hi => ?_
    rw [Nat.add_assoc, Nat.add_comm 1 i]
    exact h (i + 1) (Nat.succ_lt_succ hi)

theorem firstRefused_some {n i : Nat} {c : Cause} (hi : i < n) (hc : policyRefusal k (findExtent m unit (lba + i)) = some c)
    (hlow : ∀ j, j < i → policyRefusal k (findExtent m unit (lba + j)) = none) :
    firstRefused m k unit lba n = some (c, lba + i) := by
  induction n generalizing lba i with
  | zero => nomatch hi
  | succ n ih =>
    cases i with
    | zero =>
      have hfirst : policyRefusal k (findExtent m unit lba) = some c := hc
      simp only [firstRefused, hfirst]
      rfl
    | succ i =>
      have hfirst : policyRefusal k (findExtent m unit lba) = none := hlow 0 (Nat.succ_pos i)
      have hshift (j : Nat) : lba + 1 + j = lba + (j + 1) := by omega
      simp only [firstRefused, hfirst]
      have hrest := ih (lba := lba + 1) (Nat.lt_of_succ_lt_succ hi) ((hshift i).symm ▸ hc) fun j hj =>
        (hshift j).symm ▸ hlow (j + 1) (Nat.succ_lt_succ hj)
      rwa [hshift] at hrest

end Blocks

/-! ### The intake head (R10 to R13, R104) -/

theorem exec_intakeHeadResolution (s : State) : exec .intakeHeadResolution s = .next (ownEvent intakeStep s) := rfl

theorem intakeStep_none {s : State} (h : s.svm.partState = .loading ∨ s.rqt.intake = []) : intakeStep s = none := by
  unfold intakeStep
  split
  · rfl
  · next hl =>
    rw [h.resolve_left hl]

section Head

variable {s : State} {t : Tag} {rest : List Tag} {e : Entry}

theorem intakeStep_refuses {c : Cause} {d : Nat} (hl : s.svm.partState ≠ .loading) (hi : s.rqt.intake = t :: rest)
    (he : entryOf t s = some e) (hr : headRefusal e s = some (c, d)) :
    intakeStep s = some (complete t .refused c e.count d s) := by
  unfold intakeStep
  rw [if_neg hl, hi]
  simp only [he, hr]

theorem intakeStep_takes (hl : s.svm.partState ≠ .loading) (hi : s.rqt.intake = t :: rest) (he : entryOf t s = some e)
    (hr : headRefusal e s = none) : intakeStep s =
      if (headSegments e s).length ≤ freeSegments s then some (resolveHead t e (headSegments e s) s) else none := by
  unfold intakeStep
  rw [if_neg hl, hi]
  simp only [he, hr]

theorem resolveHead_eq (gs : List Segment) : resolveHead t e gs s = (s.setRqt { s.rqt with
      entries := s.rqt.entries.set t (some { e with state := .active, segments := gs, cutSeg := 0, cutOff := 0 })
      intake := leaveSet t s.rqt.intake, active := s.rqt.active ++ [t] }).setMve
    (s.mve.map fun m => if ∃ g ∈ gs, g.target ≠ .single then { m with dual := joinSet t m.dual } else m) := by
  have hany : gs.any isDual = true ↔ ∃ g ∈ gs, g.target ≠ .single := by simp [isDual]
  unfold resolveHead reportDual
  dsimp only
  by_cases hd : ∃ g ∈ gs, g.target ≠ .single
  · rw [if_pos (hany.mpr hd)]
    simp only [if_pos hd]
    rfl
  · rw [if_neg (mt hany.mp hd)]
    simp only [if_neg hd, Option.map_id']
    rfl

end Head

/-- Settles O49: the head is refused as a whole, or takes the segments that the map gives its blocks. -/
theorem intakeHeadResolves : Obligations.IntakeHeadResolves := by
  intro s u hr hu c
  refine ⟨fun h => ?_, fun t rest e hl hi he => ?_⟩
  · rw [exec_intakeHeadResolution, ownEvent_none hr hu (intakeStep_none h)]
  · intro block barred kindAt closed
    have hbarred (i : Nat) : barred i = policyRefusal e.kind (block i) := by
      simp only [barred]
      generalize block i = b
      cases b with
      | none => rfl
      | some x => exact (policyRefusal_some e.kind x).symm
    have hkind (i : Nat) (hc : block i ≠ none) :
        kindAt i = kindOfBlock u.xmp.active u.mve e.kind e.unit e.lba.toNat i := by
      obtain ⟨x, hx⟩ := Option.ne_none_iff_exists'.mp hc
      rw [kindOfBlock_of hx]
      simp only [kindAt, hx]
      cases u.mve with
      | none => exact (kindIn_none ..).symm
      | some m => exact (kindIn_some ..).symm
    have hnone (hopen : ¬closed) (hfree : ∀ i, i < e.count → barred i = none) : headRefusal e u = none := by
      obtain ⟨hbare, hfenced⟩ := not_or.mp hopen
      unfold headRefusal
      rw [if_neg hbare, if_neg hfenced]
      exact firstRefused_none fun i hi => (hbarred i).symm.trans (hfree i hi)
    refine ⟨fun cause detail hcase => ?_, fun hopen hfree => ⟨headSegments e u, fun i x hi' hx => ?_, fun hpass => ?_,
      fun hshort => ?_, fun henough => ?_⟩⟩
    · have hrefusal : headRefusal e u = some (cause, detail) := by
        unfold headRefusal
        obtain ⟨hbare, rfl, rfl⟩ | ⟨hfenced, hw, rfl, rfl⟩ | ⟨hopen, i, hi, hc, rfl, hlow⟩ := hcase
        · exact if_pos hbare
        · have hbare : u.svm.partState ≠ .bare := by rw [hfenced]; decide
          rw [if_neg hbare, if_pos ⟨hfenced, hw⟩]
        · obtain ⟨hbare, hfenced⟩ := not_or.mp hopen
          rw [if_neg hbare, if_neg hfenced]
          exact firstRefused_some hi ((hbarred i).symm.trans hc) fun j hj => (hbarred j).symm.trans (hlow j hj)
      have hexec := (exec_intakeHeadResolution s).trans
        (congrArg Host.Outcome.next (ownEvent_some hr hu (intakeStep_refuses hl hi he hrefusal)))
      exact ⟨_, hexec, complete_answers .., .complete ⟨rfl, rfl, rfl, rfl, rfl, rfl, rfl⟩ .., .complete ⟨rfl, rfl, rfl, rfl⟩ ..⟩
    · obtain ⟨g, hg, hold, hplace⟩ := segmentsOf_names (mve := u.mve) (k := e.kind) hi' hx
      refine ⟨g, hg, hold.1, hold.2, hplace.port, hplace.verify, hplace.start, fun hm => ?_, fun m hm => ?_⟩
      · rw [hplace.target, hm, targetIn_none]
      · intro o d
        rw [hplace.target, hm]
        exact targetIn_some ..
    · have hl := unitExtents_behind hpass e.unit
      have hcover (i : Nat) (hi : i < e.count) : findExtent u.xmp.active e.unit (e.lba.toNat + i) ≠ none := by
        intro hnone
        have hfree := hfree i hi
        have hb : block i = none := hnone
        rw [hbarred, hb] at hfree
        nomatch hfree
      have htiles := segmentsOf_tiles (mve := u.mve) (k := e.kind) hl hcover
      refine ⟨fun k g hg => ?_, ?_, fun i hi => ?_⟩
      · obtain ⟨hpos, hoffset⟩ := htiles.get hg
        exact ⟨hpos, hoffset.trans (Nat.zero_add _)⟩
      · exact (Nat.zero_add _).symm.trans htiles.sum
      · rw [hkind i (hcover i (by omega)), hkind (i + 1) (hcover (i + 1) hi)]
        exact segmentsOf_starts hl hcover hi
    · rw [exec_intakeHeadResolution, ownEvent_none hr hu]
      rw [intakeStep_takes hl hi he (hnone hopen hfree), if_neg (Nat.not_le.mpr hshort)]
    · rw [exec_intakeHeadResolution, ownEvent_some hr hu, ← resolveHead_eq]
      rw [intakeStep_takes hl hi he (hnone hopen hfree), if_pos henough]

end Sys2Proof.Machine
end
